-- ==== Sys2Proof/Word.lean ====
section
/-! DEFINITION. The word types of the core: spec/00_scope.md R6, R7. -/

namespace Sys2Proof

/-- A byte: the flags byte, `PX`, one cell of the host's memory. -/
abbrev Byte := BitVec 8

/-- A data word, 16 bits (R6). -/
abbrev Word := BitVec 16

/-- A program or data word address, 14 bits (R6, spec/20_memory.md R53). -/
abbrev Addr := BitVec 14

/-- An instruction word, `op[23:0]` (R6, spec/30_encoding.md R70). -/
abbrev OpWord := BitVec 24

end Sys2Proof
end

