-- ==== Sys2Proof/Syntax.lean ====
section
/-! DEFINITION. The instructions: one constructor per row of spec/opcode_table.json, in the table's
order, with the operand names of spec/30_encoding.md. -/

namespace Sys2Proof

/-- The 16 conditions, codes 0 to 15 (spec/40_condition.md R102). -/
inductive Cond where
  | eq | ne | gt | le | lt | ge | av | notAv | ac | notAc | neg | pos | mv | notMv | notCe | always
deriving DecidableEq, Repr

/-- The X operand codes `XOP` 0 to 7 (R75): `x0`, `x1` are `AX0`, `AX1` in the ALU, `MX0`, `MX1` in the
MAC, and `SI` both in the shifter. -/
inductive Xop where
  | x0 | x1 | ar | mr0 | mr1 | mr2 | sr0 | sr1
deriving DecidableEq, Repr

/-- The Y operand codes `YOP` 0 to 3 (R76): `y0`, `y1`, `f` are `AY0`, `AY1`, `AF` in the ALU and `MY0`,
`MY1`, `MF` in the MAC; `zero` is the constant 0. -/
inductive Yop where
  | y0 | y1 | f | zero
deriving DecidableEq, Repr

/-- The registers of group 0, codes 0 to 15 (R77, spec/44_dag_moves.md R211). -/
inductive Dreg where
  | ax0 | ax1 | mx0 | mx1 | ay0 | ay1 | my0 | my1 | si | se | ar | mr0 | mr1 | mr2 | sr0 | sr1
deriving DecidableEq, Repr

/-- The register groups 0 to 3 (spec/44_dag_moves.md R210): computation registers, DAG1, DAG2, status
and control. -/
inductive RegGroup where
  | data | dag1 | dag2 | ctl
deriving DecidableEq, Repr

/-- `DD` of the dual fetch, the register its data-memory read loads (R77). -/
inductive DualX where
  | ax0 | ax1 | mx0 | mx1
deriving DecidableEq, Repr

/-- `PD` of the dual fetch, the register its program-memory read loads (R77). -/
inductive DualY where
  | ay0 | ay1 | my0 | my1
deriving DecidableEq, Repr

/-- The MAC functions, `AMF` 00000 to 01111 (R81); the suffix is the operand format, X first. -/
inductive MacFn where
  | nop | mulRnd | addRnd | subRnd
  | mulSS | mulSU | mulUS | mulUU
  | addSS | addSU | addUS | addUU
  | subSS | subSU | subUS | subUU
deriving DecidableEq, Repr

/-- The ALU functions, `AMF` 10000 to 11111 (R82). -/
inductive AluFn where
  | passY | incY | addC | add | notY | negY | subC | sub
  | decY | rsub | rsubC | notX | andXY | orXY | xorXY | absX
deriving DecidableEq, Repr

/-- The `AMF` field: `AMF[4]` selects the unit (R73). -/
inductive Amf where
  | mac (f : MacFn)
  | alu (f : AluFn)
deriving DecidableEq, Repr

/-- The shifter functions, `SF` 0000 to 1111 (R83). -/
inductive ShiftFn where
  | lshiftHi | lshiftHiOr | lshiftLo | lshiftLoOr
  | ashiftHi | ashiftHiOr | ashiftLo | ashiftLoOr
  | normHi | normHiOr | normLo | normLoOr
  | expHi | expHix | expLo | expAdj
deriving DecidableEq, Repr

/-- The instructions. Operands: `c` the condition, `x`, `y` the compute operands, `z` the result
register (`false`: AR or MR, `true`: AF or MF), `f` the function of a multifunction form, `d`, `s`
registers of group 0, `n` the generator and `m` the modify register of a memory access (0 to 7, R78),
`e` an immediate shift code, `a` an address, `v` an immediate, `g`, `r` a register group and index. -/
inductive Instr where
  /-- `NOP`, R240 -/
  | nop
  /-- `RESERVED_01 (executes as NOP)`, R87 -/
  | reserved01
  /-- `RESERVED_02 (executes as NOP)`, R87 -/
  | reserved02
  /-- `IDLE`, R255 -/
  | idle
  /-- `RESERVED_03 (executes as NOP)`, R87 -/
  | reserved03
  /-- `STK (POP PC / POP LOOP / POP CNTR / PUSH STS / POP STS)`, R250 -/
  | stk (popPc popLoop popCntr : Bool) (sts : BitVec 2)
  /-- `SAT MR`, R161 -/
  | satMr
  /-- `DIVS yop, xop`, R132 -/
  | divs (y : Yop) (x : Xop)
  /-- `DIVQ xop`, R133 -/
  | divq (x : Xop)
  /-- `RESERVED_08 (executes as NOP)`, R87 -/
  | reserved08
  /-- `MODIFY (In, Mm)`, R228 -/
  | modify (n m : Fin 8)
  /-- `[IF cond] RTS`, R248 -/
  | rts (c : Cond)
  /-- `[IF cond] RTI`, R249 -/
  | rti (c : Cond)
  /-- `[IF cond] JUMP (In)`, R247 -/
  | jumpInd (n : Fin 8) (c : Cond)
  /-- `[IF cond] CALL (In)`, R247 -/
  | callInd (n : Fin 8) (c : Cond)
  /-- `ENA / DIS mode`, R252 -/
  | mode (arSat avLatch reverse bank : BitVec 2)
  /-- `reg = reg`, R220 -/
  | move (dg : RegGroup) (di : BitVec 4) (sg : RegGroup) (si : BitVec 4)
  /-- `[IF cond] SR = LSHIFT xop (HI)`, R172, R188 -/
  | lshiftHi (x : Xop) (c : Cond)
  /-- `[IF cond] SR = LSHIFT xop (HI, OR)`, R173, R188 -/
  | lshiftHiOr (x : Xop) (c : Cond)
  /-- `[IF cond] SR = LSHIFT xop (LO)`, R174, R188 -/
  | lshiftLo (x : Xop) (c : Cond)
  /-- `[IF cond] SR = LSHIFT xop (LO, OR)`, R175, R188 -/
  | lshiftLoOr (x : Xop) (c : Cond)
  /-- `[IF cond] SR = ASHIFT xop (HI)`, R176, R188 -/
  | ashiftHi (x : Xop) (c : Cond)
  /-- `[IF cond] SR = ASHIFT xop (HI, OR)`, R177, R188 -/
  | ashiftHiOr (x : Xop) (c : Cond)
  /-- `[IF cond] SR = ASHIFT xop (LO)`, R178, R188 -/
  | ashiftLo (x : Xop) (c : Cond)
  /-- `[IF cond] SR = ASHIFT xop (LO, OR)`, R179, R188 -/
  | ashiftLoOr (x : Xop) (c : Cond)
  /-- `[IF cond] SR = NORM xop (HI)`, R180, R188 -/
  | normHi (x : Xop) (c : Cond)
  /-- `[IF cond] SR = NORM xop (HI, OR)`, R181, R188 -/
  | normHiOr (x : Xop) (c : Cond)
  /-- `[IF cond] SR = NORM xop (LO)`, R182, R188 -/
  | normLo (x : Xop) (c : Cond)
  /-- `[IF cond] SR = NORM xop (LO, OR)`, R183, R188 -/
  | normLoOr (x : Xop) (c : Cond)
  /-- `[IF cond] SE = EXP xop (HI)`, R184, R188 -/
  | expHi (x : Xop) (c : Cond)
  /-- `[IF cond] SE = EXP xop (HIX)`, R185, R188 -/
  | expHix (x : Xop) (c : Cond)
  /-- `[IF cond] SE = EXP xop (LO)`, R186, R188 -/
  | expLo (x : Xop) (c : Cond)
  /-- `[IF cond] SB = EXPADJ xop`, R187, R188 -/
  | expAdj (x : Xop) (c : Cond)
  /-- `SR = LSHIFT xop BY n (HI)`, R172, R189 -/
  | lshiftHiBy (x : Xop) (e : BitVec 8)
  /-- `SR = LSHIFT xop BY n (HI, OR)`, R173, R189 -/
  | lshiftHiOrBy (x : Xop) (e : BitVec 8)
  /-- `SR = LSHIFT xop BY n (LO)`, R174, R189 -/
  | lshiftLoBy (x : Xop) (e : BitVec 8)
  /-- `SR = LSHIFT xop BY n (LO, OR)`, R175, R189 -/
  | lshiftLoOrBy (x : Xop) (e : BitVec 8)
  /-- `SR = ASHIFT xop BY n (HI)`, R176, R189 -/
  | ashiftHiBy (x : Xop) (e : BitVec 8)
  /-- `SR = ASHIFT xop BY n (HI, OR)`, R177, R189 -/
  | ashiftHiOrBy (x : Xop) (e : BitVec 8)
  /-- `SR = ASHIFT xop BY n (LO)`, R178, R189 -/
  | ashiftLoBy (x : Xop) (e : BitVec 8)
  /-- `SR = ASHIFT xop BY n (LO, OR)`, R179, R189 -/
  | ashiftLoOrBy (x : Xop) (e : BitVec 8)
  /-- `RESERVED_SHI (SF[3] = 1, executes as NOP)`, R189 -/
  | reservedShi (sf : BitVec 3) (x : Xop) (e : BitVec 8)
  /-- `<shift SF>, dreg = dreg`, R191 -/
  | shiftMove (f : ShiftFn) (x : Xop) (d s : Dreg)
  /-- `<shift SF>, dreg = PM(In, Mm)`, R192 -/
  | shiftPmRead (f : ShiftFn) (x : Xop) (d : Dreg) (n m : Fin 8)
  /-- `<shift SF>, PM(In, Mm) = dreg`, R192 -/
  | shiftPmWrite (f : ShiftFn) (x : Xop) (d : Dreg) (n m : Fin 8)
  /-- `<shift SF>, dreg = DM(In, Mm)`, R193 -/
  | shiftDmRead (f : ShiftFn) (x : Xop) (d : Dreg) (n m : Fin 8)
  /-- `<shift SF>, DM(In, Mm) = dreg`, R193 -/
  | shiftDmWrite (f : ShiftFn) (x : Xop) (d : Dreg) (n m : Fin 8)
  /-- `DO addr UNTIL term`, R243 -/
  | doUntil (a : Addr) (t : BitVec 4)
  /-- `[IF cond] JUMP addr`, R245 -/
  | jump (a : Addr) (c : Cond)
  /-- `[IF cond] CALL addr`, R246 -/
  | call (a : Addr) (c : Cond)
  /-- `[IF cond] NOP (AMF 00000)`, R145, R281 -/
  | ccNop (z : Bool) (y : Yop) (x : Xop) (c : Cond)
  /-- `[IF cond] MR|MF = X*Y (RND)`, R146, R281 -/
  | ccMulRnd (z : Bool) (y : Yop) (x : Xop) (c : Cond)
  /-- `[IF cond] MR|MF = MR+X*Y (RND)`, R147, R281 -/
  | ccAddRnd (z : Bool) (y : Yop) (x : Xop) (c : Cond)
  /-- `[IF cond] MR|MF = MR-X*Y (RND)`, R148, R281 -/
  | ccSubRnd (z : Bool) (y : Yop) (x : Xop) (c : Cond)
  /-- `[IF cond] MR|MF = X*Y (SS)`, R149, R281 -/
  | ccMulSS (z : Bool) (y : Yop) (x : Xop) (c : Cond)
  /-- `[IF cond] MR|MF = X*Y (SU)`, R150, R281 -/
  | ccMulSU (z : Bool) (y : Yop) (x : Xop) (c : Cond)
  /-- `[IF cond] MR|MF = X*Y (US)`, R151, R281 -/
  | ccMulUS (z : Bool) (y : Yop) (x : Xop) (c : Cond)
  /-- `[IF cond] MR|MF = X*Y (UU)`, R152, R281 -/
  | ccMulUU (z : Bool) (y : Yop) (x : Xop) (c : Cond)
  /-- `[IF cond] MR|MF = MR+X*Y (SS)`, R153, R281 -/
  | ccAddSS (z : Bool) (y : Yop) (x : Xop) (c : Cond)
  /-- `[IF cond] MR|MF = MR+X*Y (SU)`, R154, R281 -/
  | ccAddSU (z : Bool) (y : Yop) (x : Xop) (c : Cond)
  /-- `[IF cond] MR|MF = MR+X*Y (US)`, R155, R281 -/
  | ccAddUS (z : Bool) (y : Yop) (x : Xop) (c : Cond)
  /-- `[IF cond] MR|MF = MR+X*Y (UU)`, R156, R281 -/
  | ccAddUU (z : Bool) (y : Yop) (x : Xop) (c : Cond)
  /-- `[IF cond] MR|MF = MR-X*Y (SS)`, R157, R281 -/
  | ccSubSS (z : Bool) (y : Yop) (x : Xop) (c : Cond)
  /-- `[IF cond] MR|MF = MR-X*Y (SU)`, R158, R281 -/
  | ccSubSU (z : Bool) (y : Yop) (x : Xop) (c : Cond)
  /-- `[IF cond] MR|MF = MR-X*Y (US)`, R159, R281 -/
  | ccSubUS (z : Bool) (y : Yop) (x : Xop) (c : Cond)
  /-- `[IF cond] MR|MF = MR-X*Y (UU)`, R160, R281 -/
  | ccSubUU (z : Bool) (y : Yop) (x : Xop) (c : Cond)
  /-- `[IF cond] AR|AF = PASS Y`, R116, R281 -/
  | ccPassY (z : Bool) (y : Yop) (x : Xop) (c : Cond)
  /-- `[IF cond] AR|AF = Y+1`, R117, R281 -/
  | ccIncY (z : Bool) (y : Yop) (x : Xop) (c : Cond)
  /-- `[IF cond] AR|AF = X+Y+C`, R118, R281 -/
  | ccAddC (z : Bool) (y : Yop) (x : Xop) (c : Cond)
  /-- `[IF cond] AR|AF = X+Y`, R119, R281 -/
  | ccAdd (z : Bool) (y : Yop) (x : Xop) (c : Cond)
  /-- `[IF cond] AR|AF = NOT Y`, R120, R281 -/
  | ccNotY (z : Bool) (y : Yop) (x : Xop) (c : Cond)
  /-- `[IF cond] AR|AF = -Y`, R121, R281 -/
  | ccNegY (z : Bool) (y : Yop) (x : Xop) (c : Cond)
  /-- `[IF cond] AR|AF = X-Y+C-1`, R122, R281 -/
  | ccSubC (z : Bool) (y : Yop) (x : Xop) (c : Cond)
  /-- `[IF cond] AR|AF = X-Y`, R123, R281 -/
  | ccSub (z : Bool) (y : Yop) (x : Xop) (c : Cond)
  /-- `[IF cond] AR|AF = Y-1`, R124, R281 -/
  | ccDecY (z : Bool) (y : Yop) (x : Xop) (c : Cond)
  /-- `[IF cond] AR|AF = Y-X`, R125, R281 -/
  | ccRsub (z : Bool) (y : Yop) (x : Xop) (c : Cond)
  /-- `[IF cond] AR|AF = Y-X+C-1`, R126, R281 -/
  | ccRsubC (z : Bool) (y : Yop) (x : Xop) (c : Cond)
  /-- `[IF cond] AR|AF = NOT X`, R127, R281 -/
  | ccNotX (z : Bool) (y : Yop) (x : Xop) (c : Cond)
  /-- `[IF cond] AR|AF = X AND Y`, R128, R281 -/
  | ccAndXY (z : Bool) (y : Yop) (x : Xop) (c : Cond)
  /-- `[IF cond] AR|AF = X OR Y`, R129, R281 -/
  | ccOrXY (z : Bool) (y : Yop) (x : Xop) (c : Cond)
  /-- `[IF cond] AR|AF = X XOR Y`, R130, R281 -/
  | ccXorXY (z : Bool) (y : Yop) (x : Xop) (c : Cond)
  /-- `[IF cond] AR|AF = ABS X`, R131, R281 -/
  | ccAbsX (z : Bool) (y : Yop) (x : Xop) (c : Cond)
  /-- `<compute AMF>, dreg = dreg`, R283 -/
  | computeMove (f : Amf) (z : Bool) (y : Yop) (x : Xop) (d s : Dreg)
  /-- `reg = data14`, R223 -/
  | loadImm14 (g : RegGroup) (v : BitVec 14) (r : BitVec 4)
  /-- `dreg = data16`, R222 -/
  | loadImm16 (v : Word) (d : Dreg)
  /-- `<compute AMF>, dreg = PM(In, Mm)`, R284 -/
  | computePmRead (f : Amf) (z : Bool) (y : Yop) (x : Xop) (d : Dreg) (n m : Fin 8)
  /-- `<compute AMF>, PM(In, Mm) = dreg`, R285 -/
  | computePmWrite (f : Amf) (z : Bool) (y : Yop) (x : Xop) (d : Dreg) (n m : Fin 8)
  /-- `<compute AMF>, dreg = DM(In, Mm)`, R286 -/
  | computeDmRead (f : Amf) (z : Bool) (y : Yop) (x : Xop) (d : Dreg) (n m : Fin 8)
  /-- `<compute AMF>, DM(In, Mm) = dreg`, R287 -/
  | computeDmWrite (f : Amf) (z : Bool) (y : Yop) (x : Xop) (d : Dreg) (n m : Fin 8)
  /-- `reg = DM(addr)`, R225 -/
  | loadDirect (g : RegGroup) (a : Addr) (r : BitVec 4)
  /-- `DM(addr) = reg`, R226 -/
  | storeDirect (g : RegGroup) (a : Addr) (r : BitVec 4)
  /-- `DM(In, Mm) = data16`, R227 -/
  | storeImm (v : Word) (n m : Fin 8)
  /-- `<compute AMF>, xreg = DM(Ia, Mb), yreg = PM(Ic, Md)`, R288 -/
  | computeDual (f : Amf) (y : Yop) (x : Xop) (dx : DualX) (dn dm : Fin 8) (dy : DualY) (pn pm : Fin 8)
deriving DecidableEq, Repr

end Sys2Proof
end

