-- ==== Sys2Proof/WellFormed.lean ====
section
/-! DEFINITION. Which instructions have an encoding. The generator number `n = 4*G + I` and the modify
number `m = 4*G + M` of an access share the group bit `G` (spec/30_encoding.md R78, spec/10_state.md
R16), and some forms fix the group. -/

namespace Sys2Proof

/-- Generator and modify register of one group (R16: no instruction pairs registers across groups). -/
def sameGroup (n m : Fin 8) : Bool := n.val / 4 == m.val / 4

/-- Generator of DAG1 (0 to 3). -/
def inDag1 (n : Fin 8) : Bool := n.val < 4

/-- Generator of DAG2 (4 to 7). -/
def inDag2 (n : Fin 8) : Bool := 4 ≤ n.val

/-- The checks: DAG accesses stay in one group; a program-memory access uses DAG2 (R192, R284); the
indirect transfers name `I4` to `I7` (R247); the dual fetch uses DAG1 for data memory and DAG2 for
program memory (R288). -/
def Instr.wellFormed : Instr → Bool
  | .nop => true
  | .reserved01 => true
  | .reserved02 => true
  | .idle => true
  | .reserved03 => true
  | .stk _ _ _ _ => true
  | .satMr => true
  | .divs _ _ => true
  | .divq _ => true
  | .reserved08 => true
  | .modify n m => sameGroup n m
  | .rts _ => true
  | .rti _ => true
  | .jumpInd n _ => inDag2 n
  | .callInd n _ => inDag2 n
  | .mode _ _ _ _ => true
  | .move _ _ _ _ => true
  | .lshiftHi _ _ => true
  | .lshiftHiOr _ _ => true
  | .lshiftLo _ _ => true
  | .lshiftLoOr _ _ => true
  | .ashiftHi _ _ => true
  | .ashiftHiOr _ _ => true
  | .ashiftLo _ _ => true
  | .ashiftLoOr _ _ => true
  | .normHi _ _ => true
  | .normHiOr _ _ => true
  | .normLo _ _ => true
  | .normLoOr _ _ => true
  | .expHi _ _ => true
  | .expHix _ _ => true
  | .expLo _ _ => true
  | .expAdj _ _ => true
  | .lshiftHiBy _ _ => true
  | .lshiftHiOrBy _ _ => true
  | .lshiftLoBy _ _ => true
  | .lshiftLoOrBy _ _ => true
  | .ashiftHiBy _ _ => true
  | .ashiftHiOrBy _ _ => true
  | .ashiftLoBy _ _ => true
  | .ashiftLoOrBy _ _ => true
  | .reservedShi _ _ _ => true
  | .shiftMove _ _ _ _ => true
  | .shiftPmRead _ _ _ n m => inDag2 n && inDag2 m
  | .shiftPmWrite _ _ _ n m => inDag2 n && inDag2 m
  | .shiftDmRead _ _ _ n m => sameGroup n m
  | .shiftDmWrite _ _ _ n m => sameGroup n m
  | .doUntil _ _ => true
  | .jump _ _ => true
  | .call _ _ => true
  | .ccNop _ _ _ _ => true
  | .ccMulRnd _ _ _ _ => true
  | .ccAddRnd _ _ _ _ => true
  | .ccSubRnd _ _ _ _ => true
  | .ccMulSS _ _ _ _ => true
  | .ccMulSU _ _ _ _ => true
  | .ccMulUS _ _ _ _ => true
  | .ccMulUU _ _ _ _ => true
  | .ccAddSS _ _ _ _ => true
  | .ccAddSU _ _ _ _ => true
  | .ccAddUS _ _ _ _ => true
  | .ccAddUU _ _ _ _ => true
  | .ccSubSS _ _ _ _ => true
  | .ccSubSU _ _ _ _ => true
  | .ccSubUS _ _ _ _ => true
  | .ccSubUU _ _ _ _ => true
  | .ccPassY _ _ _ _ => true
  | .ccIncY _ _ _ _ => true
  | .ccAddC _ _ _ _ => true
  | .ccAdd _ _ _ _ => true
  | .ccNotY _ _ _ _ => true
  | .ccNegY _ _ _ _ => true
  | .ccSubC _ _ _ _ => true
  | .ccSub _ _ _ _ => true
  | .ccDecY _ _ _ _ => true
  | .ccRsub _ _ _ _ => true
  | .ccRsubC _ _ _ _ => true
  | .ccNotX _ _ _ _ => true
  | .ccAndXY _ _ _ _ => true
  | .ccOrXY _ _ _ _ => true
  | .ccXorXY _ _ _ _ => true
  | .ccAbsX _ _ _ _ => true
  | .computeMove _ _ _ _ _ _ => true
  | .loadImm14 _ _ _ => true
  | .loadImm16 _ _ => true
  | .computePmRead _ _ _ _ _ n m => inDag2 n && inDag2 m
  | .computePmWrite _ _ _ _ _ n m => inDag2 n && inDag2 m
  | .computeDmRead _ _ _ _ _ n m => sameGroup n m
  | .computeDmWrite _ _ _ _ _ n m => sameGroup n m
  | .loadDirect _ _ _ => true
  | .storeDirect _ _ _ => true
  | .storeImm _ n m => sameGroup n m
  | .computeDual _ _ _ _ dn dm _ pn pm => inDag1 dn && inDag1 dm && inDag2 pn && inDag2 pm

/-- The proposition the statements use. -/
abbrev Instr.WellFormed (i : Instr) : Prop := i.wellFormed = true

end Sys2Proof
end

