-- ==== Sys2Proof/Decode.lean ====
section
/-! DEFINITION. The decoder and the encoder, both from the formats and field tables of
spec/30_encoding.md (R73 to R87). Every 24-bit word is an instruction (R87); the only thing rejected is
a sequence of bytes shorter than a word. -/

namespace Sys2Proof

/-! The field codes. -/

/-- Condition code (R102) -/
def Cond.code : Cond → BitVec 4
  | .eq => 0
  | .ne => 1
  | .gt => 2
  | .le => 3
  | .lt => 4
  | .ge => 5
  | .av => 6
  | .notAv => 7
  | .ac => 8
  | .notAc => 9
  | .neg => 10
  | .pos => 11
  | .mv => 12
  | .notMv => 13
  | .notCe => 14
  | .always => 15

/-- Condition code (R102), read from its code. -/
def Cond.ofCode (b : BitVec 4) : Cond :=
  match b.toNat with
  | 0 => .eq
  | 1 => .ne
  | 2 => .gt
  | 3 => .le
  | 4 => .lt
  | 5 => .ge
  | 6 => .av
  | 7 => .notAv
  | 8 => .ac
  | 9 => .notAc
  | 10 => .neg
  | 11 => .pos
  | 12 => .mv
  | 13 => .notMv
  | 14 => .notCe
  | _ => .always

/-- X operand code (R75) -/
def Xop.code : Xop → BitVec 3
  | .x0 => 0
  | .x1 => 1
  | .ar => 2
  | .mr0 => 3
  | .mr1 => 4
  | .mr2 => 5
  | .sr0 => 6
  | .sr1 => 7

/-- X operand code (R75), read from its code. -/
def Xop.ofCode (b : BitVec 3) : Xop :=
  match b.toNat with
  | 0 => .x0
  | 1 => .x1
  | 2 => .ar
  | 3 => .mr0
  | 4 => .mr1
  | 5 => .mr2
  | 6 => .sr0
  | _ => .sr1

/-- Y operand code (R76) -/
def Yop.code : Yop → BitVec 2
  | .y0 => 0
  | .y1 => 1
  | .f => 2
  | .zero => 3

/-- Y operand code (R76), read from its code. -/
def Yop.ofCode (b : BitVec 2) : Yop :=
  match b.toNat with
  | 0 => .y0
  | 1 => .y1
  | 2 => .f
  | _ => .zero

/-- Group 0 register code (R77) -/
def Dreg.code : Dreg → BitVec 4
  | .ax0 => 0
  | .ax1 => 1
  | .mx0 => 2
  | .mx1 => 3
  | .ay0 => 4
  | .ay1 => 5
  | .my0 => 6
  | .my1 => 7
  | .si => 8
  | .se => 9
  | .ar => 10
  | .mr0 => 11
  | .mr1 => 12
  | .mr2 => 13
  | .sr0 => 14
  | .sr1 => 15

/-- Group 0 register code (R77), read from its code. -/
def Dreg.ofCode (b : BitVec 4) : Dreg :=
  match b.toNat with
  | 0 => .ax0
  | 1 => .ax1
  | 2 => .mx0
  | 3 => .mx1
  | 4 => .ay0
  | 5 => .ay1
  | 6 => .my0
  | 7 => .my1
  | 8 => .si
  | 9 => .se
  | 10 => .ar
  | 11 => .mr0
  | 12 => .mr1
  | 13 => .mr2
  | 14 => .sr0
  | _ => .sr1

/-- Register group code (R210) -/
def RegGroup.code : RegGroup → BitVec 2
  | .data => 0
  | .dag1 => 1
  | .dag2 => 2
  | .ctl => 3

/-- Register group code (R210), read from its code. -/
def RegGroup.ofCode (b : BitVec 2) : RegGroup :=
  match b.toNat with
  | 0 => .data
  | 1 => .dag1
  | 2 => .dag2
  | _ => .ctl

/-- `DD` of the dual fetch (R77) -/
def DualX.code : DualX → BitVec 2
  | .ax0 => 0
  | .ax1 => 1
  | .mx0 => 2
  | .mx1 => 3

/-- `DD` of the dual fetch (R77), read from its code. -/
def DualX.ofCode (b : BitVec 2) : DualX :=
  match b.toNat with
  | 0 => .ax0
  | 1 => .ax1
  | 2 => .mx0
  | _ => .mx1

/-- `PD` of the dual fetch (R77) -/
def DualY.code : DualY → BitVec 2
  | .ay0 => 0
  | .ay1 => 1
  | .my0 => 2
  | .my1 => 3

/-- `PD` of the dual fetch (R77), read from its code. -/
def DualY.ofCode (b : BitVec 2) : DualY :=
  match b.toNat with
  | 0 => .ay0
  | 1 => .ay1
  | 2 => .my0
  | _ => .my1

/-- MAC function, `AMF[3:0]` with `AMF[4]` = 0 (R81) -/
def MacFn.code : MacFn → BitVec 4
  | .nop => 0
  | .mulRnd => 1
  | .addRnd => 2
  | .subRnd => 3
  | .mulSS => 4
  | .mulSU => 5
  | .mulUS => 6
  | .mulUU => 7
  | .addSS => 8
  | .addSU => 9
  | .addUS => 10
  | .addUU => 11
  | .subSS => 12
  | .subSU => 13
  | .subUS => 14
  | .subUU => 15

/-- MAC function, `AMF[3:0]` with `AMF[4]` = 0 (R81), read from its code. -/
def MacFn.ofCode (b : BitVec 4) : MacFn :=
  match b.toNat with
  | 0 => .nop
  | 1 => .mulRnd
  | 2 => .addRnd
  | 3 => .subRnd
  | 4 => .mulSS
  | 5 => .mulSU
  | 6 => .mulUS
  | 7 => .mulUU
  | 8 => .addSS
  | 9 => .addSU
  | 10 => .addUS
  | 11 => .addUU
  | 12 => .subSS
  | 13 => .subSU
  | 14 => .subUS
  | _ => .subUU

/-- ALU function, `AMF[3:0]` with `AMF[4]` = 1 (R82) -/
def AluFn.code : AluFn → BitVec 4
  | .passY => 0
  | .incY => 1
  | .addC => 2
  | .add => 3
  | .notY => 4
  | .negY => 5
  | .subC => 6
  | .sub => 7
  | .decY => 8
  | .rsub => 9
  | .rsubC => 10
  | .notX => 11
  | .andXY => 12
  | .orXY => 13
  | .xorXY => 14
  | .absX => 15

/-- ALU function, `AMF[3:0]` with `AMF[4]` = 1 (R82), read from its code. -/
def AluFn.ofCode (b : BitVec 4) : AluFn :=
  match b.toNat with
  | 0 => .passY
  | 1 => .incY
  | 2 => .addC
  | 3 => .add
  | 4 => .notY
  | 5 => .negY
  | 6 => .subC
  | 7 => .sub
  | 8 => .decY
  | 9 => .rsub
  | 10 => .rsubC
  | 11 => .notX
  | 12 => .andXY
  | 13 => .orXY
  | 14 => .xorXY
  | _ => .absX

/-- Shifter function `SF` (R83) -/
def ShiftFn.code : ShiftFn → BitVec 4
  | .lshiftHi => 0
  | .lshiftHiOr => 1
  | .lshiftLo => 2
  | .lshiftLoOr => 3
  | .ashiftHi => 4
  | .ashiftHiOr => 5
  | .ashiftLo => 6
  | .ashiftLoOr => 7
  | .normHi => 8
  | .normHiOr => 9
  | .normLo => 10
  | .normLoOr => 11
  | .expHi => 12
  | .expHix => 13
  | .expLo => 14
  | .expAdj => 15

/-- Shifter function `SF` (R83), read from its code. -/
def ShiftFn.ofCode (b : BitVec 4) : ShiftFn :=
  match b.toNat with
  | 0 => .lshiftHi
  | 1 => .lshiftHiOr
  | 2 => .lshiftLo
  | 3 => .lshiftLoOr
  | 4 => .ashiftHi
  | 5 => .ashiftHiOr
  | 6 => .ashiftLo
  | 7 => .ashiftLoOr
  | 8 => .normHi
  | 9 => .normHiOr
  | 10 => .normLo
  | 11 => .normLoOr
  | 12 => .expHi
  | 13 => .expHix
  | 14 => .expLo
  | _ => .expAdj

/-- `{hi, lo}`: `hi` in the more significant bits (spec/00_scope.md R7). -/
def cat {v w : Nat} (hi : BitVec v) (lo : BitVec w) : BitVec (v + w) := hi ++ lo

/-- The `AMF` field (R73, R81, R82). -/
def Amf.code : Amf → BitVec 5
  | .mac f => cat 0#1 f.code
  | .alu f => cat 1#1 f.code

/-- The `AMF` field, read from its code (R73, R81, R82). -/
def Amf.ofCode (b : BitVec 5) : Amf :=
  if b.extractLsb' 4 1 = 1#1 then .alu (.ofCode (b.extractLsb' 0 4)) else .mac (.ofCode (b.extractLsb' 0 4))

/-- Generator or modify number `4*G + I` of a group bit and a field (R78). -/
def genOf (g : BitVec 1) (i : BitVec 2) : Fin 8 := ⟨4 * g.toNat + i.toNat, by omega⟩

/-- The group bit `G` of a generator number (R78). -/
def groupBit (n : Fin 8) : BitVec 1 := BitVec.ofNat 1 (n.val / 4)

/-- The field `I` or `M` of a generator or modify number (R78). -/
def indexField (n : Fin 8) : BitVec 2 := BitVec.ofNat 2 (n.val % 4)

/-- The `len` bits of an instruction word from bit `lo` up. -/
def opField (w : OpWord) (lo len : Nat) : BitVec len := w.extractLsb' lo len

/-! The classes with one constructor per function. -/

/-- The `CC` instruction of an `AMF` code (R281, R282). -/
def ccInstr (f : Amf) (z : Bool) (y : Yop) (x : Xop) (c : Cond) : Instr :=
  match f with
  | .mac .nop => .ccNop z y x c
  | .mac .mulRnd => .ccMulRnd z y x c
  | .mac .addRnd => .ccAddRnd z y x c
  | .mac .subRnd => .ccSubRnd z y x c
  | .mac .mulSS => .ccMulSS z y x c
  | .mac .mulSU => .ccMulSU z y x c
  | .mac .mulUS => .ccMulUS z y x c
  | .mac .mulUU => .ccMulUU z y x c
  | .mac .addSS => .ccAddSS z y x c
  | .mac .addSU => .ccAddSU z y x c
  | .mac .addUS => .ccAddUS z y x c
  | .mac .addUU => .ccAddUU z y x c
  | .mac .subSS => .ccSubSS z y x c
  | .mac .subSU => .ccSubSU z y x c
  | .mac .subUS => .ccSubUS z y x c
  | .mac .subUU => .ccSubUU z y x c
  | .alu .passY => .ccPassY z y x c
  | .alu .incY => .ccIncY z y x c
  | .alu .addC => .ccAddC z y x c
  | .alu .add => .ccAdd z y x c
  | .alu .notY => .ccNotY z y x c
  | .alu .negY => .ccNegY z y x c
  | .alu .subC => .ccSubC z y x c
  | .alu .sub => .ccSub z y x c
  | .alu .decY => .ccDecY z y x c
  | .alu .rsub => .ccRsub z y x c
  | .alu .rsubC => .ccRsubC z y x c
  | .alu .notX => .ccNotX z y x c
  | .alu .andXY => .ccAndXY z y x c
  | .alu .orXY => .ccOrXY z y x c
  | .alu .xorXY => .ccXorXY z y x c
  | .alu .absX => .ccAbsX z y x c

/-- The `SHC` instruction of an `SF` code (R188). -/
def shcInstr (f : ShiftFn) (x : Xop) (c : Cond) : Instr :=
  match f with
  | .lshiftHi => .lshiftHi x c
  | .lshiftHiOr => .lshiftHiOr x c
  | .lshiftLo => .lshiftLo x c
  | .lshiftLoOr => .lshiftLoOr x c
  | .ashiftHi => .ashiftHi x c
  | .ashiftHiOr => .ashiftHiOr x c
  | .ashiftLo => .ashiftLo x c
  | .ashiftLoOr => .ashiftLoOr x c
  | .normHi => .normHi x c
  | .normHiOr => .normHiOr x c
  | .normLo => .normLo x c
  | .normLoOr => .normLoOr x c
  | .expHi => .expHi x c
  | .expHix => .expHix x c
  | .expLo => .expLo x c
  | .expAdj => .expAdj x c

/-- The `SHI` instruction of an `SF` code: `SF[3]` = 1 is reserved (R189, R87). -/
def shiInstr (sf : BitVec 4) (x : Xop) (e : BitVec 8) : Instr :=
  match sf.toNat with
  | 0 => .lshiftHiBy x e
  | 1 => .lshiftHiOrBy x e
  | 2 => .lshiftLoBy x e
  | 3 => .lshiftLoOrBy x e
  | 4 => .ashiftHiBy x e
  | 5 => .ashiftHiOrBy x e
  | 6 => .ashiftLoBy x e
  | 7 => .ashiftLoOrBy x e
  | _ => .reservedShi (sf.extractLsb' 0 3) x e

/-! The decoder. -/

/-- Primary opcodes `0x00` to `0x11` (R86), selected by the whole byte `op[23:16]`. -/
def decodeLow (w : OpWord) : Instr :=
  let x := Xop.ofCode (opField w 8 3)
  let c := Cond.ofCode (opField w 0 4)
  let sf := ShiftFn.ofCode (opField w 11 4)
  let d := Dreg.ofCode (opField w 4 4)
  match (opField w 16 8).toNat with
  | 0x00 => .nop
  | 0x01 => .reserved01
  | 0x02 => if opField w 15 1 = 1#1 then .idle else .reserved02
  | 0x03 => .reserved03
  | 0x04 => .stk (w.getLsbD 4) (w.getLsbD 3) (w.getLsbD 2) (opField w 0 2)
  | 0x05 => .satMr
  | 0x06 => .divs (.ofCode (opField w 11 2)) x
  | 0x07 => .divq x
  | 0x08 => .reserved08
  | 0x09 => .modify (genOf (opField w 4 1) (opField w 2 2)) (genOf (opField w 4 1) (opField w 0 2))
  | 0x0A => if opField w 4 1 = 1#1 then .rti c else .rts c
  | 0x0B =>
    if opField w 4 1 = 1#1 then .callInd (genOf 1#1 (opField w 6 2)) c
    else .jumpInd (genOf 1#1 (opField w 6 2)) c
  | 0x0C => .mode (opField w 10 2) (opField w 8 2) (opField w 6 2) (opField w 4 2)
  | 0x0D =>
    .move (.ofCode (opField w 10 2)) (opField w 4 4) (.ofCode (opField w 8 2)) (opField w 0 4)
  | 0x0E => shcInstr sf x c
  | 0x0F => shiInstr (opField w 11 4) x (opField w 0 8)
  | 0x10 => .shiftMove sf x d (.ofCode (opField w 0 4))
  | _ => -- 0x11: `decodeWord` has taken every higher opcode
    if opField w 15 1 = 1#1 then
      .shiftPmWrite sf x d (genOf 1#1 (opField w 2 2)) (genOf 1#1 (opField w 0 2))
    else .shiftPmRead sf x d (genOf 1#1 (opField w 2 2)) (genOf 1#1 (opField w 0 2))

/-- The instruction of a word (R86): the classes selected by the top 2 to 7 bits of `op[23:16]` first,
then the single opcodes of `decodeLow`. Bits marked `x` in R74 are not read (R85). -/
def decodeWord (w : OpWord) : Instr :=
  let f := Amf.ofCode (opField w 13 5)
  let z := w.getLsbD 18
  let y := Yop.ofCode (opField w 11 2)
  let x := Xop.ofCode (opField w 8 3)
  let c := Cond.ofCode (opField w 0 4)
  let d := Dreg.ofCode (opField w 4 4)
  if opField w 22 2 = 0b11#2 then
    .computeDual f y x
      (.ofCode (opField w 18 2)) (genOf 0#1 (opField w 2 2)) (genOf 0#1 (opField w 0 2))
      (.ofCode (opField w 20 2)) (genOf 1#1 (opField w 6 2)) (genOf 1#1 (opField w 4 2))
  else if opField w 21 3 = 0b101#3 then
    .storeImm (opField w 4 16)
      (genOf (opField w 20 1) (opField w 2 2)) (genOf (opField w 20 1) (opField w 0 2))
  else if opField w 20 4 = 0b1001#4 then
    .storeDirect (.ofCode (opField w 18 2)) (opField w 4 14) (opField w 0 4)
  else if opField w 20 4 = 0b1000#4 then
    .loadDirect (.ofCode (opField w 18 2)) (opField w 4 14) (opField w 0 4)
  else if opField w 21 3 = 0b011#3 then
    if opField w 19 1 = 1#1 then
      .computeDmWrite f z y x d
        (genOf (opField w 20 1) (opField w 2 2)) (genOf (opField w 20 1) (opField w 0 2))
    else
      .computeDmRead f z y x d
        (genOf (opField w 20 1) (opField w 2 2)) (genOf (opField w 20 1) (opField w 0 2))
  else if opField w 20 4 = 0b0101#4 then
    if opField w 19 1 = 1#1 then
      .computePmWrite f z y x d (genOf 1#1 (opField w 2 2)) (genOf 1#1 (opField w 0 2))
    else .computePmRead f z y x d (genOf 1#1 (opField w 2 2)) (genOf 1#1 (opField w 0 2))
  else if opField w 20 4 = 0b0100#4 then .loadImm16 (opField w 4 16) (.ofCode (opField w 0 4))
  else if opField w 20 4 = 0b0011#4 then
    .loadImm14 (.ofCode (opField w 18 2)) (opField w 4 14) (opField w 0 4)
  else if opField w 19 5 = 0b00101#5 then .computeMove f z y x d (.ofCode (opField w 0 4))
  else if opField w 19 5 = 0b00100#5 then ccInstr f z y x c
  else if opField w 18 6 = 0b000111#6 then .call (opField w 4 14) c
  else if opField w 18 6 = 0b000110#6 then .jump (opField w 4 14) c
  else if opField w 18 6 = 0b000101#6 then .doUntil (opField w 4 14) (opField w 0 4)
  else if opField w 17 7 = 0b0001001#7 then
    if opField w 15 1 = 1#1 then
      .shiftDmWrite (.ofCode (opField w 11 4)) x d
        (genOf (opField w 16 1) (opField w 2 2)) (genOf (opField w 16 1) (opField w 0 2))
    else
      .shiftDmRead (.ofCode (opField w 11 4)) x d
        (genOf (opField w 16 1) (opField w 2 2)) (genOf (opField w 16 1) (opField w 0 2))
  else decodeLow w

/-! The encoder: the formats of R74, an ignored bit written as 0 (R85). -/

/-- Format `CC` (R281). -/
def encodeCc (f : Amf) (z : Bool) (y : Yop) (x : Xop) (c : Cond) : OpWord :=
  cat 0b00100#5 (cat (BitVec.ofBool z) (cat f.code (cat y.code (cat x.code (cat 0#4 c.code)))))

/-- Format `SHC` (R188). -/
def encodeShc (f : ShiftFn) (x : Xop) (c : Cond) : OpWord :=
  cat 0x0E#8 (cat 0#1 (cat f.code (cat x.code (cat 0#4 c.code))))

/-- Format `SHI` (R189). -/
def encodeShi (sf : BitVec 4) (x : Xop) (e : BitVec 8) : OpWord :=
  cat 0x0F#8 (cat 0#1 (cat sf (cat x.code e)))

/-- Formats `CM`, `CPM`, `CDM` (R283 to R287): a 5-bit class with its direction, the compute fields and
the low byte. -/
def encodeCompute (cls : BitVec 5) (f : Amf) (z : Bool) (y : Yop) (x : Xop) (d : Dreg) (low : BitVec 4) :
    OpWord :=
  cat cls (cat (BitVec.ofBool z) (cat f.code (cat y.code (cat x.code (cat d.code low)))))

/-- Formats `SHM`, `SHPM`, `SHDM` (R191 to R193): a 9-bit class with its direction, the shift fields and
the low byte. -/
def encodeShift (cls : BitVec 9) (f : ShiftFn) (x : Xop) (d : Dreg) (low : BitVec 4) : OpWord :=
  cat cls (cat f.code (cat x.code (cat d.code low)))

/-- The fields `I` and `M` of an access (R78). -/
def encodeIM (n m : Fin 8) : BitVec 4 := cat (indexField n) (indexField m)

/-- The word of an instruction (R74). -/
def encode : Instr → OpWord
  | .nop => cat 0x00#8 0#16
  | .reserved01 => cat 0x01#8 0#16
  | .reserved02 => cat 0x02#8 0#16
  | .idle => cat 0x02#8 (cat 1#1 0#15)
  | .reserved03 => cat 0x03#8 0#16
  | .stk p l c sts =>
    cat 0x04#8 (cat 0#11 (cat (BitVec.ofBool p) (cat (BitVec.ofBool l) (cat (BitVec.ofBool c) sts))))
  | .satMr => cat 0x05#8 0#16
  | .divs y x => cat 0x06#8 (cat 0#3 (cat y.code (cat x.code 0#8)))
  | .divq x => cat 0x07#8 (cat 0#5 (cat x.code 0#8))
  | .reserved08 => cat 0x08#8 0#16
  | .modify n m => cat 0x09#8 (cat 0#11 (cat (groupBit n) (encodeIM n m)))
  | .rts c => cat 0x0A#8 (cat 0#11 (cat 0#1 c.code))
  | .rti c => cat 0x0A#8 (cat 0#11 (cat 1#1 c.code))
  | .jumpInd n c => cat 0x0B#8 (cat 0#8 (cat (indexField n) (cat 0#1 (cat 0#1 c.code))))
  | .callInd n c => cat 0x0B#8 (cat 0#8 (cat (indexField n) (cat 0#1 (cat 1#1 c.code))))
  | .mode arSat avLatch reverse bank => cat 0x0C#8 (cat 0#4 (cat arSat (cat avLatch (cat reverse (cat bank 0#4)))))
  | .move dg di sg si => cat 0x0D#8 (cat 0#4 (cat dg.code (cat sg.code (cat di si))))
  | .lshiftHi x c => encodeShc .lshiftHi x c
  | .lshiftHiOr x c => encodeShc .lshiftHiOr x c
  | .lshiftLo x c => encodeShc .lshiftLo x c
  | .lshiftLoOr x c => encodeShc .lshiftLoOr x c
  | .ashiftHi x c => encodeShc .ashiftHi x c
  | .ashiftHiOr x c => encodeShc .ashiftHiOr x c
  | .ashiftLo x c => encodeShc .ashiftLo x c
  | .ashiftLoOr x c => encodeShc .ashiftLoOr x c
  | .normHi x c => encodeShc .normHi x c
  | .normHiOr x c => encodeShc .normHiOr x c
  | .normLo x c => encodeShc .normLo x c
  | .normLoOr x c => encodeShc .normLoOr x c
  | .expHi x c => encodeShc .expHi x c
  | .expHix x c => encodeShc .expHix x c
  | .expLo x c => encodeShc .expLo x c
  | .expAdj x c => encodeShc .expAdj x c
  | .lshiftHiBy x e => encodeShi 0 x e
  | .lshiftHiOrBy x e => encodeShi 1 x e
  | .lshiftLoBy x e => encodeShi 2 x e
  | .lshiftLoOrBy x e => encodeShi 3 x e
  | .ashiftHiBy x e => encodeShi 4 x e
  | .ashiftHiOrBy x e => encodeShi 5 x e
  | .ashiftLoBy x e => encodeShi 6 x e
  | .ashiftLoOrBy x e => encodeShi 7 x e
  | .reservedShi sf x e => encodeShi (cat 1#1 sf) x e
  | .shiftMove f x d s => encodeShift 0b000100000#9 f x d s.code
  | .shiftPmRead f x d n m => encodeShift 0b000100010#9 f x d (encodeIM n m)
  | .shiftPmWrite f x d n m => encodeShift 0b000100011#9 f x d (encodeIM n m)
  | .shiftDmRead f x d n m => encodeShift (cat 0b0001001#7 (cat (groupBit n) 0#1)) f x d (encodeIM n m)
  | .shiftDmWrite f x d n m => encodeShift (cat 0b0001001#7 (cat (groupBit n) 1#1)) f x d (encodeIM n m)
  | .doUntil a t => cat 0b000101#6 (cat a t)
  | .jump a c => cat 0b000110#6 (cat a c.code)
  | .call a c => cat 0b000111#6 (cat a c.code)
  | .ccNop z y x c => encodeCc (.mac .nop) z y x c
  | .ccMulRnd z y x c => encodeCc (.mac .mulRnd) z y x c
  | .ccAddRnd z y x c => encodeCc (.mac .addRnd) z y x c
  | .ccSubRnd z y x c => encodeCc (.mac .subRnd) z y x c
  | .ccMulSS z y x c => encodeCc (.mac .mulSS) z y x c
  | .ccMulSU z y x c => encodeCc (.mac .mulSU) z y x c
  | .ccMulUS z y x c => encodeCc (.mac .mulUS) z y x c
  | .ccMulUU z y x c => encodeCc (.mac .mulUU) z y x c
  | .ccAddSS z y x c => encodeCc (.mac .addSS) z y x c
  | .ccAddSU z y x c => encodeCc (.mac .addSU) z y x c
  | .ccAddUS z y x c => encodeCc (.mac .addUS) z y x c
  | .ccAddUU z y x c => encodeCc (.mac .addUU) z y x c
  | .ccSubSS z y x c => encodeCc (.mac .subSS) z y x c
  | .ccSubSU z y x c => encodeCc (.mac .subSU) z y x c
  | .ccSubUS z y x c => encodeCc (.mac .subUS) z y x c
  | .ccSubUU z y x c => encodeCc (.mac .subUU) z y x c
  | .ccPassY z y x c => encodeCc (.alu .passY) z y x c
  | .ccIncY z y x c => encodeCc (.alu .incY) z y x c
  | .ccAddC z y x c => encodeCc (.alu .addC) z y x c
  | .ccAdd z y x c => encodeCc (.alu .add) z y x c
  | .ccNotY z y x c => encodeCc (.alu .notY) z y x c
  | .ccNegY z y x c => encodeCc (.alu .negY) z y x c
  | .ccSubC z y x c => encodeCc (.alu .subC) z y x c
  | .ccSub z y x c => encodeCc (.alu .sub) z y x c
  | .ccDecY z y x c => encodeCc (.alu .decY) z y x c
  | .ccRsub z y x c => encodeCc (.alu .rsub) z y x c
  | .ccRsubC z y x c => encodeCc (.alu .rsubC) z y x c
  | .ccNotX z y x c => encodeCc (.alu .notX) z y x c
  | .ccAndXY z y x c => encodeCc (.alu .andXY) z y x c
  | .ccOrXY z y x c => encodeCc (.alu .orXY) z y x c
  | .ccXorXY z y x c => encodeCc (.alu .xorXY) z y x c
  | .ccAbsX z y x c => encodeCc (.alu .absX) z y x c
  | .computeMove f z y x d s => encodeCompute 0b00101#5 f z y x d s.code
  | .loadImm14 g v r => cat 0b0011#4 (cat g.code (cat v r))
  | .loadImm16 v d => cat 0b0100#4 (cat v d.code)
  | .computePmRead f z y x d n m => encodeCompute 0b01010#5 f z y x d (encodeIM n m)
  | .computePmWrite f z y x d n m => encodeCompute 0b01011#5 f z y x d (encodeIM n m)
  | .computeDmRead f z y x d n m =>
    encodeCompute (cat 0b011#3 (cat (groupBit n) 0#1)) f z y x d (encodeIM n m)
  | .computeDmWrite f z y x d n m =>
    encodeCompute (cat 0b011#3 (cat (groupBit n) 1#1)) f z y x d (encodeIM n m)
  | .loadDirect g a r => cat 0b1000#4 (cat g.code (cat a r))
  | .storeDirect g a r => cat 0b1001#4 (cat g.code (cat a r))
  | .storeImm v n m => cat 0b101#3 (cat (groupBit n) (cat v (encodeIM n m)))
  | .computeDual f y x dx dn dm dy pn pm =>
    cat 0b11#2 (cat dy.code (cat dx.code (cat f.code (cat y.code (cat x.code (cat (encodeIM pn pm) (encodeIM dn dm)))))))

/-! The opcode table: one row for each constructor, copied from spec/opcode_table.json. A word is an
instruction of a row when its bits under the row's mask are the row's match (R85). -/

/-- `mask` of the instruction's row of spec/opcode_table.json. -/
def tableMask : Instr → OpWord
  | .nop => 0xFF0000
  | .reserved01 => 0xFF0000
  | .reserved02 => 0xFF8000
  | .idle => 0xFF8000
  | .reserved03 => 0xFF0000
  | .stk _ _ _ _ => 0xFF0000
  | .satMr => 0xFF0000
  | .divs _ _ => 0xFF0000
  | .divq _ => 0xFF0000
  | .reserved08 => 0xFF0000
  | .modify _ _ => 0xFF0000
  | .rts _ => 0xFF0010
  | .rti _ => 0xFF0010
  | .jumpInd _ _ => 0xFF0010
  | .callInd _ _ => 0xFF0010
  | .mode _ _ _ _ => 0xFF0000
  | .move _ _ _ _ => 0xFF0000
  | .lshiftHi _ _ => 0xFF7800
  | .lshiftHiOr _ _ => 0xFF7800
  | .lshiftLo _ _ => 0xFF7800
  | .lshiftLoOr _ _ => 0xFF7800
  | .ashiftHi _ _ => 0xFF7800
  | .ashiftHiOr _ _ => 0xFF7800
  | .ashiftLo _ _ => 0xFF7800
  | .ashiftLoOr _ _ => 0xFF7800
  | .normHi _ _ => 0xFF7800
  | .normHiOr _ _ => 0xFF7800
  | .normLo _ _ => 0xFF7800
  | .normLoOr _ _ => 0xFF7800
  | .expHi _ _ => 0xFF7800
  | .expHix _ _ => 0xFF7800
  | .expLo _ _ => 0xFF7800
  | .expAdj _ _ => 0xFF7800
  | .lshiftHiBy _ _ => 0xFF7800
  | .lshiftHiOrBy _ _ => 0xFF7800
  | .lshiftLoBy _ _ => 0xFF7800
  | .lshiftLoOrBy _ _ => 0xFF7800
  | .ashiftHiBy _ _ => 0xFF7800
  | .ashiftHiOrBy _ _ => 0xFF7800
  | .ashiftLoBy _ _ => 0xFF7800
  | .ashiftLoOrBy _ _ => 0xFF7800
  | .reservedShi _ _ _ => 0xFF4000
  | .shiftMove _ _ _ _ => 0xFF0000
  | .shiftPmRead _ _ _ _ _ => 0xFF8000
  | .shiftPmWrite _ _ _ _ _ => 0xFF8000
  | .shiftDmRead _ _ _ _ _ => 0xFE8000
  | .shiftDmWrite _ _ _ _ _ => 0xFE8000
  | .doUntil _ _ => 0xFC0000
  | .jump _ _ => 0xFC0000
  | .call _ _ => 0xFC0000
  | .ccNop _ _ _ _ => 0xFBE000
  | .ccMulRnd _ _ _ _ => 0xFBE000
  | .ccAddRnd _ _ _ _ => 0xFBE000
  | .ccSubRnd _ _ _ _ => 0xFBE000
  | .ccMulSS _ _ _ _ => 0xFBE000
  | .ccMulSU _ _ _ _ => 0xFBE000
  | .ccMulUS _ _ _ _ => 0xFBE000
  | .ccMulUU _ _ _ _ => 0xFBE000
  | .ccAddSS _ _ _ _ => 0xFBE000
  | .ccAddSU _ _ _ _ => 0xFBE000
  | .ccAddUS _ _ _ _ => 0xFBE000
  | .ccAddUU _ _ _ _ => 0xFBE000
  | .ccSubSS _ _ _ _ => 0xFBE000
  | .ccSubSU _ _ _ _ => 0xFBE000
  | .ccSubUS _ _ _ _ => 0xFBE000
  | .ccSubUU _ _ _ _ => 0xFBE000
  | .ccPassY _ _ _ _ => 0xFBE000
  | .ccIncY _ _ _ _ => 0xFBE000
  | .ccAddC _ _ _ _ => 0xFBE000
  | .ccAdd _ _ _ _ => 0xFBE000
  | .ccNotY _ _ _ _ => 0xFBE000
  | .ccNegY _ _ _ _ => 0xFBE000
  | .ccSubC _ _ _ _ => 0xFBE000
  | .ccSub _ _ _ _ => 0xFBE000
  | .ccDecY _ _ _ _ => 0xFBE000
  | .ccRsub _ _ _ _ => 0xFBE000
  | .ccRsubC _ _ _ _ => 0xFBE000
  | .ccNotX _ _ _ _ => 0xFBE000
  | .ccAndXY _ _ _ _ => 0xFBE000
  | .ccOrXY _ _ _ _ => 0xFBE000
  | .ccXorXY _ _ _ _ => 0xFBE000
  | .ccAbsX _ _ _ _ => 0xFBE000
  | .computeMove _ _ _ _ _ _ => 0xF80000
  | .loadImm14 _ _ _ => 0xF00000
  | .loadImm16 _ _ => 0xF00000
  | .computePmRead _ _ _ _ _ _ _ => 0xF80000
  | .computePmWrite _ _ _ _ _ _ _ => 0xF80000
  | .computeDmRead _ _ _ _ _ _ _ => 0xE80000
  | .computeDmWrite _ _ _ _ _ _ _ => 0xE80000
  | .loadDirect _ _ _ => 0xF00000
  | .storeDirect _ _ _ => 0xF00000
  | .storeImm _ _ _ => 0xE00000
  | .computeDual _ _ _ _ _ _ _ _ _ => 0xC00000

/-- `match` of the instruction's row of spec/opcode_table.json. -/
def tableMatch : Instr → OpWord
  | .nop => 0x000000
  | .reserved01 => 0x010000
  | .reserved02 => 0x020000
  | .idle => 0x028000
  | .reserved03 => 0x030000
  | .stk _ _ _ _ => 0x040000
  | .satMr => 0x050000
  | .divs _ _ => 0x060000
  | .divq _ => 0x070000
  | .reserved08 => 0x080000
  | .modify _ _ => 0x090000
  | .rts _ => 0x0A0000
  | .rti _ => 0x0A0010
  | .jumpInd _ _ => 0x0B0000
  | .callInd _ _ => 0x0B0010
  | .mode _ _ _ _ => 0x0C0000
  | .move _ _ _ _ => 0x0D0000
  | .lshiftHi _ _ => 0x0E0000
  | .lshiftHiOr _ _ => 0x0E0800
  | .lshiftLo _ _ => 0x0E1000
  | .lshiftLoOr _ _ => 0x0E1800
  | .ashiftHi _ _ => 0x0E2000
  | .ashiftHiOr _ _ => 0x0E2800
  | .ashiftLo _ _ => 0x0E3000
  | .ashiftLoOr _ _ => 0x0E3800
  | .normHi _ _ => 0x0E4000
  | .normHiOr _ _ => 0x0E4800
  | .normLo _ _ => 0x0E5000
  | .normLoOr _ _ => 0x0E5800
  | .expHi _ _ => 0x0E6000
  | .expHix _ _ => 0x0E6800
  | .expLo _ _ => 0x0E7000
  | .expAdj _ _ => 0x0E7800
  | .lshiftHiBy _ _ => 0x0F0000
  | .lshiftHiOrBy _ _ => 0x0F0800
  | .lshiftLoBy _ _ => 0x0F1000
  | .lshiftLoOrBy _ _ => 0x0F1800
  | .ashiftHiBy _ _ => 0x0F2000
  | .ashiftHiOrBy _ _ => 0x0F2800
  | .ashiftLoBy _ _ => 0x0F3000
  | .ashiftLoOrBy _ _ => 0x0F3800
  | .reservedShi _ _ _ => 0x0F4000
  | .shiftMove _ _ _ _ => 0x100000
  | .shiftPmRead _ _ _ _ _ => 0x110000
  | .shiftPmWrite _ _ _ _ _ => 0x118000
  | .shiftDmRead _ _ _ _ _ => 0x120000
  | .shiftDmWrite _ _ _ _ _ => 0x128000
  | .doUntil _ _ => 0x140000
  | .jump _ _ => 0x180000
  | .call _ _ => 0x1C0000
  | .ccNop _ _ _ _ => 0x200000
  | .ccMulRnd _ _ _ _ => 0x202000
  | .ccAddRnd _ _ _ _ => 0x204000
  | .ccSubRnd _ _ _ _ => 0x206000
  | .ccMulSS _ _ _ _ => 0x208000
  | .ccMulSU _ _ _ _ => 0x20A000
  | .ccMulUS _ _ _ _ => 0x20C000
  | .ccMulUU _ _ _ _ => 0x20E000
  | .ccAddSS _ _ _ _ => 0x210000
  | .ccAddSU _ _ _ _ => 0x212000
  | .ccAddUS _ _ _ _ => 0x214000
  | .ccAddUU _ _ _ _ => 0x216000
  | .ccSubSS _ _ _ _ => 0x218000
  | .ccSubSU _ _ _ _ => 0x21A000
  | .ccSubUS _ _ _ _ => 0x21C000
  | .ccSubUU _ _ _ _ => 0x21E000
  | .ccPassY _ _ _ _ => 0x220000
  | .ccIncY _ _ _ _ => 0x222000
  | .ccAddC _ _ _ _ => 0x224000
  | .ccAdd _ _ _ _ => 0x226000
  | .ccNotY _ _ _ _ => 0x228000
  | .ccNegY _ _ _ _ => 0x22A000
  | .ccSubC _ _ _ _ => 0x22C000
  | .ccSub _ _ _ _ => 0x22E000
  | .ccDecY _ _ _ _ => 0x230000
  | .ccRsub _ _ _ _ => 0x232000
  | .ccRsubC _ _ _ _ => 0x234000
  | .ccNotX _ _ _ _ => 0x236000
  | .ccAndXY _ _ _ _ => 0x238000
  | .ccOrXY _ _ _ _ => 0x23A000
  | .ccXorXY _ _ _ _ => 0x23C000
  | .ccAbsX _ _ _ _ => 0x23E000
  | .computeMove _ _ _ _ _ _ => 0x280000
  | .loadImm14 _ _ _ => 0x300000
  | .loadImm16 _ _ => 0x400000
  | .computePmRead _ _ _ _ _ _ _ => 0x500000
  | .computePmWrite _ _ _ _ _ _ _ => 0x580000
  | .computeDmRead _ _ _ _ _ _ _ => 0x600000
  | .computeDmWrite _ _ _ _ _ _ _ => 0x680000
  | .loadDirect _ _ _ => 0x800000
  | .storeDirect _ _ _ => 0x900000
  | .storeImm _ _ _ => 0xA00000
  | .computeDual _ _ _ _ _ _ _ _ _ => 0xC00000

/-! Words as bytes. Byte order is not observable on this core (spec/20_memory.md R56); the model puts the
least significant byte at the lowest place (log 2). -/

/-- The three bytes of a word, least significant first (log 2). -/
def wordBytes (w : OpWord) : List Byte := [w.extractLsb' 0 8, w.extractLsb' 8 8, w.extractLsb' 16 8]

/-- The word of three bytes, least significant first (log 2). -/
def wordOfBytes (b0 b1 b2 : Byte) : OpWord := cat b2 (cat b1 b0)

/-- Why bytes are no instruction. -/
inductive DecodeError where
  /-- fewer bytes than the one instruction length (R70); raised by `decodeBytes` only, never by a step,
  whose fetch reads a whole word: safe -/
  | truncated
deriving DecidableEq, Repr

/-- The instruction at the front of a list of bytes, and the bytes after it. -/
def decodeBytes : List Byte → Except DecodeError (Instr × List Byte)
  | b0 :: b1 :: b2 :: rest => .ok (decodeWord (wordOfBytes b0 b1 b2), rest)
  | _ => .error .truncated

/-- The host's question: the instruction the decoder reads from the low `nbits` bits of `w`, every
higher bit 0, laid out as bytes (`nbits` is at most the one instruction length, R70). -/
def decodeTableWord (nbits w : Nat) : Option Instr :=
  match decodeBytes (wordBytes (BitVec.ofNat 24 (w % 2 ^ nbits))) with
  | .ok (i, _) => some i
  | .error _ => none

end Sys2Proof
end

