-- ==== Sys2Proof/Config.lean ====
section
/-! DEFINITION. What an implementation fixes (spec/00_scope.md R6), each parameter at the default the
spec decides, and what the spec leaves open with no default: the ids of the register snoop and the
answers of devices. -/

namespace Sys2Proof

/-- `NEST_OFF_POLICY` of R6: the IMASK update of an interrupt entry while the nesting bit is 0
(spec/60_exceptions.md R308). -/
inductive NestOffPolicy where
  /-- only the taken line's own bit is cleared -/
  | ownBitOnly
  /-- every bit is cleared -/
  | all
deriving DecidableEq, Repr

/-- `STACK_POLICY` of R6: a push beyond the depth of a hardware stack or a pop below empty
(spec/10_state.md R36, spec/93_implementation_defined.md U3). -/
inductive StackPolicy where
  /-- the pointer wraps, and a sticky bit of `SSTAT` tells -/
  | wrap
  /-- the run is refused where a wrapped bit would be set -/
  | refuse
deriving DecidableEq, Repr

/-- The symbolic ids of the register snoop interface (spec/70_reset_and_hazards.md R352, with the
state R213 and R215 say the host reaches through it). A depth of a stack is counted modulo its depth
(spec/10_state.md R37), so that there are as many as cells. `outOfRange` stands for every integer that
is no id. -/
inductive SnoopId where
  | pc | ppc
  | ax0 | ax1 | ay0 | ay1 | ar | af
  | mx0 | mx1 | my0 | my1 | mr0 | mr1 | mr2 | mf
  | si | se | sb | sr0 | sr1
  | i (n : Fin 8) | m (n : Fin 8) | l (n : Fin 8) | mask (n : Fin 8) | base (n : Fin 8)
  | px | cntr | astat | sstat | mstat | imask | icntl
  | pcSp | loopSp | cntrSp | stsSp
  | irqState (n : Fin 4) | irqLatch (n : Fin 4)
  | flagIn | flagOut | idle
  | loopEnd | loopTerm
  | pcStackAt (depth : Fin 16) | loopStackAt (depth : Fin 4)
  | cntrStackAt (depth : Fin 4) | stsStackAt (depth : Fin 4)
  | genPc | genSp
  | outOfRange
deriving DecidableEq, Repr

namespace Config

/-- `RESET_PC` (R6, spec/10_state.md R38, log 4). -/
def resetPc : Addr := 0x0004

/-- `VECTOR[n]`, default `n` (R6, spec/60_exceptions.md R310, log 4, log 6). -/
def vector (n : Fin 4) : Addr := BitVec.ofNat 14 n.val

/-- `PRIORITY`, highest first (R6, spec/60_exceptions.md R305, log 4). -/
def priority : List (Fin 4) := [3, 2, 1, 0]

/-- `NEST_OFF_POLICY` (R6, spec/60_exceptions.md R308, log 4). -/
def nestOffPolicy : NestOffPolicy := .ownBitOnly

/-- `REV_SCOPE`: the generators whose address is bit-reversed (R6, spec/44_dag_moves.md R204, log 4). -/
def revScope : List (Fin 8) := [0, 1, 2, 3]

/-- `MR_SAT_NEG`: what `SAT MR` writes on negative overflow (R6, spec/42_mac.md R161, log 4). -/
def mrSatNeg : BitVec 40 := 0xFF80000000

/-- `STACK_POLICY` (R6, spec/10_state.md R36, log 5). -/
def stackPolicy : StackPolicy := .wrap

/-- The names of the register snoop that take no number. -/
def plainSnoopNames : List SnoopId :=
  [.pc, .ppc, .ax0, .ax1, .ay0, .ay1, .ar, .af, .mx0, .mx1, .my0, .my1, .mr0, .mr1, .mr2, .mf, .si, .se, .sb,
    .sr0, .sr1, .px, .cntr, .astat, .sstat, .mstat, .imask, .icntl, .pcSp, .loopSp, .cntrSp, .stsSp, .flagIn,
    .flagOut, .idle, .loopEnd, .loopTerm, .genPc, .genSp]

/-- The names of the register snoop that take a number. -/
def numberedSnoopNames : List (List SnoopId) :=
  [(List.finRange 8).map SnoopId.i, (List.finRange 8).map SnoopId.m, (List.finRange 8).map SnoopId.l,
    (List.finRange 8).map SnoopId.mask, (List.finRange 8).map SnoopId.base,
    (List.finRange 4).map SnoopId.irqState, (List.finRange 4).map SnoopId.irqLatch,
    (List.finRange 16).map SnoopId.pcStackAt, (List.finRange 4).map SnoopId.loopStackAt,
    (List.finRange 4).map SnoopId.cntrStackAt, (List.finRange 4).map SnoopId.stsStackAt]

/-- Every name of the register snoop, each once. -/
def snoopNames : List SnoopId := plainSnoopNames ++ numberedSnoopNames.flatten

/-- Which integer stands for which place of `snoopNames`, counted from 0: open (log 12). Every one-to-one map
from the names to the integers, negative ones among them, is `snoopPerm` on their places, for some
permutation. -/
opaque snoopPerm : Equiv.Perm Int

/-- `SNOOP_ID`, a one-to-one map from the names to integers, open with no default (R6,
spec/70_reset_and_hazards.md R352, spec/92_eei_decisions.md D31, log 12). -/
def snoopInt (id : SnoopId) : Int := snoopPerm (snoopNames.idxOf id)

/-- The name an integer stands for under `SNOOP_ID`. -/
def snoopId (n : Int) : SnoopId :=
  match snoopPerm.symm n with
  | .ofNat place => (snoopNames[place]?).getD .outOfRange
  | .negSucc _ => .outOfRange

/-- A free value (log 12): what a snoop of `LOOP_END` returns while it is `NONE`. -/
opaque snoopOfNone : BitVec 32

/-- Free values (log 3): what the device answers to the read that is event number `k` at the host; a
data-memory read takes the low 16 bits. -/
opaque deviceAnswer : Nat → OpWord

end Config

end Sys2Proof
end

