-- ==== Sys2Proof/Machine/State.lean ====
section
/-! DEFINITION. The state of the machine: spec/10_state.md R10 to R39, and the two memories behind the
port (spec/20_memory.md R50 to R52). INVENTORY.md lists every piece with its rule and reset value. -/

namespace Sys2Proof.Machine

/-- The computation registers of one bank (R11 to R14). `ZERO` (R15) has no cell: it is 0 in the
operations that read and write registers. -/
@[ext]
structure Bank where
  ax0 : Word
  ax1 : Word
  ay0 : Word
  ay1 : Word
  ar : Word
  af : Word
  mx0 : Word
  mx1 : Word
  my0 : Word
  my1 : Word
  /-- `MR`: `MR0` bits 15 to 0, `MR1` bits 31 to 16, `MR2` bits 39 to 32 (R13) -/
  mr : BitVec 40
  mf : Word
  si : Word
  /-- `SE`, a cell that holds the sign extension of its low 8 bits (R14) -/
  se : Word
  /-- `SB`, a cell that holds the sign extension of its low 5 bits (R14) -/
  sb : Word
  /-- `SR`: `SR0` bits 15 to 0, `SR1` bits 31 to 16 (R14) -/
  sr : BitVec 32
deriving DecidableEq, Repr

/-- One address generator (R16). -/
@[ext]
structure Gen where
  /-- `I[n]` -/
  i : Addr
  /-- `M[n]`, a cell that holds the sign extension of its low 14 bits -/
  m : Word
  /-- `L[n]` -/
  l : Addr
  /-- `MASK[n]`, `MaskTable(L[n])` -/
  mask : Addr
  /-- `BASE[n]` -/
  base : Addr
deriving DecidableEq, Repr

/-- A hardware stack: an array of cells and a pointer that counts the live entries modulo the depth
(R30). -/
@[ext]
structure HwStack (α : Type) (k : Nat) where
  cells : Vector α (2 ^ k)
  sp : BitVec k
deriving DecidableEq, Repr

/-- An entry of the status stack (R30, R34). -/
@[ext]
structure StsCell where
  astat : BitVec 8
  mstat : BitVec 4
  imask : BitVec 4
deriving DecidableEq, Repr

/-- A memory, as (address, byte) pairs in one canonical form (`Memory.wf` in Machine/Ops.lean). -/
abbrev Memory := List Host.Cell

/-- What the host sees of the core at its port: an access to an address where it maps a device
(spec/20_memory.md R58, R68), and the acknowledge of an interrupt (spec/60_exceptions.md R310). -/
inductive PortEvent where
  | irqAck (n : Fin 4)
  | pmRead (a : Addr)
  | pmWrite (a : Addr) (w : OpWord)
  | dmRead (a : Addr)
  | dmWrite (a : Addr) (v : Word)
deriving DecidableEq, Repr

/-- All the state of the core, the unit of context save and restore (R10, spec/70_reset_and_hazards.md
R351). -/
@[ext]
structure Context where
  bank0 : Bank
  bank1 : Bank
  gens : Vector Gen 8
  /-- `PC` (R17) -/
  pc : Addr
  /-- `PPC` (R18) -/
  ppc : Addr
  /-- `LOOP_END`; `none` is the spec's own `NONE` (R19) -/
  loopEnd : Option Addr
  /-- `LOOP_TERM` (R19) -/
  loopTerm : BitVec 4
  /-- `CNTR` (R20) -/
  cntr : Word
  /-- `ASTAT`, from bit 0: AZ AN AV AC AS AQ MV SS (R21) -/
  astat : BitVec 8
  /-- `MSTAT`, from bit 0: BANK REVERSE AV_LATCH AR_SAT (R22) -/
  mstat : BitVec 4
  /-- `SSTAT`, an empty and a wrapped bit for each of the PC, counter, status and loop stacks (R23) -/
  sstat : BitVec 8
  /-- `IMASK` (R25) -/
  imask : BitVec 4
  /-- `ICNTL`, bits 3 to 0 edge select, bit 4 NEST (R26) -/
  icntl : BitVec 5
  /-- `PX` (R27) -/
  px : Byte
  /-- `IRQ_LEVEL[n]` in bit n (R28) -/
  irqLevel : BitVec 4
  /-- `IRQ_LATCH[n]` in bit n (R28) -/
  irqLatch : BitVec 4
  /-- `IDLE` (R29) -/
  idle : Bool
  /-- `FLAG_IN` (R29) -/
  flagIn : Bool
  /-- `FLAG_OUT` (R29) -/
  flagOut : Bool
  /-- `IRQ_EXTRA_CYCLES` (R29, log 10) -/
  irqExtraCycles : Nat
  /-- PC stack (R30, R31) -/
  pcStk : HwStack Addr 4
  /-- loop stack, cells `{0, end[13:0], term[3:0]}` (R30, R32) -/
  loopStk : HwStack (BitVec 32) 2
  /-- counter stack (R30, R33) -/
  cntrStk : HwStack Word 2
  /-- status stack (R30, R34) -/
  stsStk : HwStack StsCell 2
deriving DecidableEq, Repr

/-- The machine: the core's context, and what stands behind the port: the program and data memory of the
host, where it maps devices, and what it has seen. -/
@[ext]
structure State extends Context where
  /-- program memory: word `a` in the bytes `4*a` to `4*a + 2` (log 2) -/
  pm : Memory
  /-- data memory: word `a` in the bytes `2*a`, `2*a + 1` (log 2) -/
  dm : Memory
  /-- the addresses of program memory at which the host maps a device (R68, log 3) -/
  pmDevices : List Addr
  /-- the addresses of data memory at which the host maps a device (R68, log 3) -/
  dmDevices : List Addr
  /-- the MODEL's own field (log 3, log 6): the events at the host, the latest first; their number
  selects the free value that a device answers -/
  events : List PortEvent
deriving DecidableEq, Repr

/-- The core raises no synchronous exception (spec/60_exceptions.md R300), so there is no fault: nobody
raises one and no step answers one; safe (log 21). -/
inductive Fault where
deriving DecidableEq, Repr

/-- Why a step has no meaning. -/
inductive Refusal where
  /-- an instruction with no meaning in the model, raised by `exec`'s arm for it; no arm does, every
  instruction has its meaning; safe (log 21) -/
  | notModelled (mnemonic : String)
  /-- a wrapped bit of `SSTAT` would be set, raised by `step` and by the host's actions under
  `STACK_POLICY` = `refuse` and never under its default; safe (log 5) -/
  | stackWrapped
deriving DecidableEq, Repr

/-- The answer of a step or of an instruction's meaning. -/
abbrev Result := Host.Outcome State Fault Refusal

/-- A bank after reset (R38). -/
def Bank.reset : Bank where
  ax0 := 0
  ax1 := 0
  ay0 := 0
  ay1 := 0
  ar := 0
  af := 0
  mx0 := 0
  mx1 := 0
  my0 := 0
  my1 := 0
  mr := 0
  mf := 0
  si := 0
  se := 0
  sb := 0
  sr := 0

/-- An address generator after reset: linear addressing with a zero step (R38). -/
def Gen.reset : Gen where
  i := 0
  m := 0
  l := 0
  mask := 0x3FFF
  base := 0

/-- The core after reset (R38, spec/70_reset_and_hazards.md R340, R341). -/
def Context.reset : Context where
  bank0 := Bank.reset
  bank1 := Bank.reset
  gens := Vector.replicate 8 Gen.reset
  pc := Config.resetPc
  ppc := Config.resetPc
  loopEnd := none
  loopTerm := 0
  cntr := 0
  astat := 0x00
  mstat := 0x0
  sstat := 0x55
  imask := 0x0
  icntl := 0x00
  px := 0x00
  irqLevel := 0
  irqLatch := 0
  idle := false
  flagIn := false
  flagOut := false
  irqExtraCycles := 0
  pcStk := { cells := Vector.replicate 16 0, sp := 0 }
  loopStk := { cells := Vector.replicate 4 0, sp := 0 }
  cntrStk := { cells := Vector.replicate 4 0, sp := 0 }
  stsStk := { cells := Vector.replicate 4 { astat := 0, mstat := 0, imask := 0 }, sp := 0 }

/-- The machine right after reset, with nothing listed in either memory and no device mapped (R38; log 1, log 3,
log 22). -/
def State.reset : State where
  toContext := Context.reset
  pm := []
  dm := []
  pmDevices := []
  dmDevices := []
  events := []

end Sys2Proof.Machine
end

