-- ==== Sys2Proof/Machine/Flags.lean ====
section
/-! DEFINITION. The flags byte, the adder and the condition table, as functions of bit vectors:
spec/10_state.md R21, R24; spec/40_condition.md R101, R102; spec/41_alu.md R112, R113. -/

namespace Sys2Proof.Machine

/-- `v` with bit `k` made `b`. -/
def putBit {w : Nat} (v : BitVec w) (k : Nat) (b : Bool) : BitVec w :=
  (v &&& ~~~(1#w <<< k)) ||| ((BitVec.ofBool b).setWidth w <<< k)

/-! Bit positions of `ASTAT` (R21). -/

def Flag.az : Nat := 0
def Flag.an : Nat := 1
def Flag.av : Nat := 2
def Flag.ac : Nat := 3
def Flag.asn : Nat := 4
def Flag.aq : Nat := 5
def Flag.mv : Nat := 6
def Flag.ss : Nat := 7

/-! Bit positions of `MSTAT` (R22). -/

def Mode.bank : Nat := 0
def Mode.reverse : Nat := 1
def Mode.avLatch : Nat := 2
def Mode.arSat : Nat := 3

/-- `ICNTL[4]`, the nesting bit (R26). -/
def nestBit : Nat := 4

/-- `ASTAT_CLEAR`, the flags an ALU operation clears first (R24). -/
def astatClear (mstat : BitVec 4) : BitVec 8 :=
  if mstat.getLsbD Mode.avLatch then 0b00001011 else 0b00001111

/-- What the adder or the logic unit gives: the 16-bit result before saturation, and the carry and
overflow a flag or the saturation reads. -/
structure AluOut where
  r : Word
  carry : Bool
  ovf : Bool
deriving DecidableEq, Repr

/-- The adder `Add(a, b, cin)` (R112). -/
def addc (a b : Word) (cin : Bool) : AluOut :=
  let t := a.toNat + b.toNat + cin.toNat
  let r : Word := BitVec.ofNat 16 t
  { r := r, carry := t.testBit 16, ovf := a.msb == b.msb && r.msb != a.msb }

/-- A logic function: no carry, no overflow (R113). -/
def logicOut (r : Word) : AluOut := { r := r, carry := false, ovf := false }

/-- `ABS`: its overflow is the sign of its result, 1 only for `0x8000` (R131). -/
def absOut (x : Word) : AluOut :=
  let r : Word := if x.msb then BitVec.ofInt 16 (-x.toInt) else x
  { r := r, carry := false, ovf := r.msb }

/-- The flags byte after an ALU operation (R113, R114): clear, then set `AZ`, `AN`, `AV`, `AC`. -/
def aluFlags (mstat : BitVec 4) (astat : BitVec 8) (o : AluOut) : BitVec 8 :=
  let f := astat &&& ~~~(astatClear mstat)
  let f := putBit f Flag.az (o.r == 0)
  let f := putBit f Flag.an o.r.msb
  let f := putBit f Flag.av (f.getLsbD Flag.av || o.ovf)
  putBit f Flag.ac o.carry

/-- `CondTable` (R101, R102): code and flags byte to a boolean; the entry of code 14 is false. -/
def condTable (c : Cond) (f : BitVec 8) : Bool :=
  let az := f.getLsbD Flag.az
  let lt := f.getLsbD Flag.an ^^ f.getLsbD Flag.av
  match c with
  | .eq => az
  | .ne => !az
  | .gt => !(lt || az)
  | .le => lt || az
  | .lt => lt
  | .ge => !lt
  | .av => f.getLsbD Flag.av
  | .notAv => !f.getLsbD Flag.av
  | .ac => f.getLsbD Flag.ac
  | .notAc => !f.getLsbD Flag.ac
  | .neg => f.getLsbD Flag.asn
  | .pos => !f.getLsbD Flag.asn
  | .mv => f.getLsbD Flag.mv
  | .notMv => !f.getLsbD Flag.mv
  | .notCe => false
  | .always => true

/-- `MV` of a 40-bit result: bits 39 to 31 are not all equal (spec/42_mac.md R144). -/
def mvOf (r : BitVec 40) : Bool :=
  r.extractLsb' 31 9 != 0 && r.extractLsb' 31 9 != BitVec.allOnes 9

end Sys2Proof.Machine
end

