-- ==== Sys2Proof/Machine/Ops.lean ====
section
/-! DEFINITION. The named operations over the state: memory, banks, hardware stacks, address generators,
the condition with its counter, the taking of an interrupt and the return from one, the sequencing of a
step. -/

namespace Sys2Proof.Machine

/-! ## Memory (spec/20_memory.md R50 to R53; log 1, log 2) -/

/-- What an address that is not listed reads as (log 1). -/
def unlisted : Byte := 0

/-- The byte at an address. -/
def Memory.read : Memory → Nat → Byte
  | [], _ => unlisted
  | (b, v) :: rest, a => if a = b then v else Memory.read rest a

/-- The cell `(a, v)` put before the first cell of a higher address. -/
def Memory.insertCell : Memory → Nat → Byte → Memory
  | [], a, v => [(a, v)]
  | (b, u) :: rest, a, v =>
    if a < b then (a, v) :: (b, u) :: rest else (b, u) :: Memory.insertCell rest a v

/-- The memory with the byte at `a` made `v`, in canonical form again: a byte equal to what an unlisted
address reads as is not listed. -/
def Memory.write (m : Memory) (a : Nat) (v : Byte) : Memory :=
  let rest := m.filter fun c => c.1 != a
  if v = unlisted then rest else Memory.insertCell rest a v

/-- Addresses rise strictly from above `lo`, and no cell holds what an unlisted address reads as. -/
def Memory.wfFrom : Option Nat → Memory → Bool
  | _, [] => true
  | lo, (a, v) :: rest => lo.all (· < a) && v != unlisted && Memory.wfFrom (some a) rest

/-- The canonical form of a memory. -/
def Memory.wf (m : Memory) : Bool := Memory.wfFrom none m

/-- The byte address of program word `a` (log 2). -/
def pmByte (a : Addr) : Nat := 4 * a.toNat

/-- The byte address of data word `a` (log 2). -/
def dmByte (a : Addr) : Nat := 2 * a.toNat

/-- Only bytes of program words: three in every four, of 16384 words (R51, log 2). -/
def pmInSpace (m : Memory) : Bool := m.all fun c => c.1 < 4 * 2 ^ 14 && c.1 % 4 != 3

/-- Only bytes of data words: two for each of 16384 words (R52, log 2). -/
def dmInSpace (m : Memory) : Bool := m.all fun c => c.1 < 2 * 2 ^ 14

/-- The word of a program memory at `a`. -/
def Memory.getPm (m : Memory) (a : Addr) : OpWord :=
  wordOfBytes (m.read (pmByte a)) (m.read (pmByte a + 1)) (m.read (pmByte a + 2))

/-- Program memory with the word at `a` made `w` (R51). -/
def Memory.putPm (m : Memory) (a : Addr) (w : OpWord) : Memory :=
  ((m.write (pmByte a) (w.extractLsb' 0 8)).write (pmByte a + 1) (w.extractLsb' 8 8)).write
    (pmByte a + 2) (w.extractLsb' 16 8)

/-- The word of a data memory at `a`. -/
def Memory.getDm (m : Memory) (a : Addr) : Word := cat (m.read (dmByte a + 1)) (m.read (dmByte a))

/-- Data memory with the word at `a` made `v` (R52). -/
def Memory.putDm (m : Memory) (a : Addr) (v : Word) : Memory :=
  (m.write (dmByte a) (v.extractLsb' 0 8)).write (dmByte a + 1) (v.extractLsb' 8 8)


/-! ## Named updates of one field -/

def State.setGens (s : State) (g : Vector Gen 8) : State := { s with gens := g }
def State.setPc (s : State) (a : Addr) : State := { s with pc := a }
def State.setPpc (s : State) (a : Addr) : State := { s with ppc := a }
def State.setLoop (s : State) (e : Option Addr) (t : BitVec 4) : State :=
  { s with loopEnd := e, loopTerm := t }
def State.setCntr (s : State) (v : Word) : State := { s with cntr := v }
def State.setAstat (s : State) (v : BitVec 8) : State := { s with astat := v }
def State.setMstat (s : State) (v : BitVec 4) : State := { s with mstat := v }
def State.setImask (s : State) (v : BitVec 4) : State := { s with imask := v }
def State.setIcntl (s : State) (v : BitVec 5) : State := { s with icntl := v }
def State.setPx (s : State) (v : Byte) : State := { s with px := v }
def State.setIrqLevel (s : State) (v : BitVec 4) : State := { s with irqLevel := v }
def State.setIrqLatch (s : State) (v : BitVec 4) : State := { s with irqLatch := v }
def State.setIdle (s : State) (b : Bool) : State := { s with idle := b }
def State.setPm (s : State) (m : Memory) : State := { s with pm := m }
def State.setDm (s : State) (m : Memory) : State := { s with dm := m }
def State.setDevices (s : State) (pm dm : List Addr) : State := { s with pmDevices := pm, dmDevices := dm }
/-- The host sees an event. -/
def State.record (s : State) (e : PortEvent) : State := { s with events := e :: s.events }
/-- A stack with the status word that follows it. -/
def State.setPcStk (s : State) (k : HwStack Addr 4) (v : BitVec 8) : State :=
  { s with pcStk := k, sstat := v }
def State.setLoopStk (s : State) (k : HwStack (BitVec 32) 2) (v : BitVec 8) : State :=
  { s with loopStk := k, sstat := v }
def State.setCntrStk (s : State) (k : HwStack Word 2) (v : BitVec 8) : State :=
  { s with cntrStk := k, sstat := v }
def State.setStsStk (s : State) (k : HwStack StsCell 2) (v : BitVec 8) : State :=
  { s with stsStk := k, sstat := v }

/-! ## The port (spec/20_memory.md R50 to R53, R58, R68)

A read is a value and, at an address where the host maps a device, an event: the operation that reads
takes the value from the state before and goes on from the state after. -/

/-- `PmRead(a)`, its value: the word stored there, or a device's answer (R51, R68; log 3). -/
def pmRead (s : State) (a : Addr) : OpWord :=
  if a ∈ s.pmDevices then Config.deviceAnswer s.events.length else s.pm.getPm a

/-- `PmRead(a)`, the state after. -/
def afterPmRead (a : Addr) (s : State) : State := if a ∈ s.pmDevices then s.record (.pmRead a) else s

/-- `PmWrite(a, w)` (R51, R68; log 3). -/
def pmWrite (a : Addr) (w : OpWord) (s : State) : State :=
  if a ∈ s.pmDevices then s.record (.pmWrite a w) else s.setPm (s.pm.putPm a w)

/-- `DmRead(a)`, its value: the word stored there, or a device's answer (R52, R68; log 3). -/
def dmRead (s : State) (a : Addr) : Word :=
  if a ∈ s.dmDevices then (Config.deviceAnswer s.events.length).setWidth 16 else s.dm.getDm a

/-- `DmRead(a)`, the state after. -/
def afterDmRead (a : Addr) (s : State) : State := if a ∈ s.dmDevices then s.record (.dmRead a) else s

/-- `DmWrite(a, v)` (R52, R68; log 3). -/
def dmWrite (a : Addr) (v : Word) (s : State) : State :=
  if a ∈ s.dmDevices then s.record (.dmWrite a v) else s.setDm (s.dm.putDm a v)

/-! ## The active bank (R11) -/

/-- `B`, the active bank `BANK[MSTAT[0]]`. -/
def State.bank (s : State) : Bank := if s.mstat.getLsbD Mode.bank then s.bank1 else s.bank0

/-- The bank no instruction reaches. -/
def State.otherBank (s : State) : Bank := if s.mstat.getLsbD Mode.bank then s.bank0 else s.bank1

/-- The active bank made `b`. -/
def State.setBank (s : State) (b : Bank) : State :=
  if s.mstat.getLsbD Mode.bank then { s with bank1 := b } else { s with bank0 := b }

/-! ## Hardware stacks (R30 to R36) -/

/-- A push: store at the pointer, then count up modulo the depth (R30). -/
def HwStack.push {α : Type} {k : Nat} (st : HwStack α k) (v : α) : HwStack α k :=
  { cells := st.cells.set st.sp.toNat v st.sp.isLt, sp := st.sp + 1 }

/-- A pop: count down modulo the depth; the cell keeps its value (R30). -/
def HwStack.pop {α : Type} {k : Nat} (st : HwStack α k) : HwStack α k := { st with sp := st.sp - 1 }

/-- The entry below the pointer, `cell[(SP - 1) mod DEPTH]`: what a pop returns (R30, R31). -/
def HwStack.top {α : Type} {k : Nat} (st : HwStack α k) : α :=
  st.cells[(st.sp - 1).toNat]'(st.sp - 1).isLt

/-- A push with `SP = DEPTH - 1` wraps (R36). -/
def HwStack.pushWraps {α : Type} {k : Nat} (st : HwStack α k) : Bool := st.sp == BitVec.allOnes k

/-- A pop with `SP = 0` wraps (R36). -/
def HwStack.popWraps {α : Type} {k : Nat} (st : HwStack α k) : Bool := st.sp == 0#k

/-! Position of each stack's empty bit in `SSTAT`; its wrapped bit is the next one (R23). -/

def pcEmptyBit : Nat := 0
def cntrEmptyBit : Nat := 2
def stsEmptyBit : Nat := 4
def loopEmptyBit : Nat := 6

/-- `SSTAT` after a push or pop that left a stack empty or not and that wrapped or not (R35, R36): the
wrapped bit is sticky. -/
def sstatAfter (sstat : BitVec 8) (emptyBit : Nat) (empty wraps : Bool) : BitVec 8 :=
  putBit (putBit sstat emptyBit empty) (emptyBit + 1) (sstat.getLsbD (emptyBit + 1) || wraps)

/-- `PushPC(v)` (R31). -/
def pushPc (v : Addr) (s : State) : State :=
  let k := s.pcStk.push v
  s.setPcStk k (sstatAfter s.sstat pcEmptyBit (k.sp == 0) s.pcStk.pushWraps)

/-- `TopPC()` (R31). -/
def topPc (s : State) : Addr := s.pcStk.top

/-- `PopPC()` without its value, which is `topPc` of the state before (R31). -/
def popPc (s : State) : State :=
  let k := s.pcStk.pop
  s.setPcStk k (sstatAfter s.sstat pcEmptyBit (k.sp == 0) s.pcStk.popWraps)

/-- A loop cell `{0, end, term}` (R30). -/
def loopCell (e : Addr) (t : BitVec 4) : BitVec 32 := cat 0#14 (cat e t)

/-- The end address of a loop cell. -/
def cellEnd (c : BitVec 32) : Addr := c.extractLsb' 4 14

/-- The termination code of a loop cell. -/
def cellTerm (c : BitVec 32) : BitVec 4 := c.extractLsb' 0 4

/-- `PushLoop(e, t)` (R32). -/
def pushLoop (e : Addr) (t : BitVec 4) (s : State) : State :=
  let k := s.loopStk.push (loopCell e t)
  (s.setLoopStk k (sstatAfter s.sstat loopEmptyBit (k.sp == 0) s.loopStk.pushWraps)).setLoop (some e) t

/-- `PopLoop()` (R32). -/
def popLoop (s : State) : State :=
  let k := s.loopStk.pop
  let s1 := s.setLoopStk k (sstatAfter s.sstat loopEmptyBit (k.sp == 0) s.loopStk.popWraps)
  if k.sp = 0 then s1.setLoop none 0 else s1.setLoop (some (cellEnd k.top)) (cellTerm k.top)

/-- `PushCntr()` (R33). -/
def pushCntr (s : State) : State :=
  let k := s.cntrStk.push s.cntr
  s.setCntrStk k (sstatAfter s.sstat cntrEmptyBit (k.sp == 0) s.cntrStk.pushWraps)

/-- `PopCntr()` (R33). -/
def popCntr (s : State) : State :=
  let k := s.cntrStk.pop
  (s.setCntrStk k (sstatAfter s.sstat cntrEmptyBit (k.sp == 0) s.cntrStk.popWraps)).setCntr s.cntrStk.top

/-- `PushSts()` (R34). -/
def pushSts (s : State) : State :=
  let k := s.stsStk.push { astat := s.astat, mstat := s.mstat, imask := s.imask }
  s.setStsStk k (sstatAfter s.sstat stsEmptyBit (k.sp == 0) s.stsStk.pushWraps)

/-- `PopSts()` (R34). -/
def popSts (s : State) : State :=
  let k := s.stsStk.pop
  let c := s.stsStk.top
  (((s.setStsStk k (sstatAfter s.sstat stsEmptyBit (k.sp == 0) s.stsStk.popWraps)).setAstat
    c.astat).setMstat c.mstat).setImask c.imask

/-! ## Address generators (spec/44_dag_moves.md R201 to R207) -/

/-- `BitRev` (R201). -/
def bitRev (x : Addr) : Addr := x.reverse

/-- The `k` of `2^k - 1` in R202, found by the source's descending thresholds: the least `k` with
`i <= 2^k`. -/
def maskBits (i : Nat) : Nat → Nat
  | 0 => 0
  | k + 1 => if 2 ^ k < i then k + 1 else maskBits i k

/-- `MaskTable` (R202). -/
def maskTable (l : Addr) : Addr :=
  if l = 0 then 0x3FFF else BitVec.ofNat 14 (2 ^ maskBits l.toNat 14 - 1)

/-- The 16-bit cell an `M` register keeps of a written value (R207). -/
def extM (v : Word) : Word := (v.setWidth 14).signExtend 16

/-- Generator `n`. -/
def State.gen (s : State) (n : Fin 8) : Gen := s.gens[n]

/-- The state with generator `n` made `g`. -/
def State.setGen (s : State) (n : Fin 8) (g : Gen) : State := s.setGens (s.gens.set n g)

/-- `EA(n)` (R203, R204). -/
def ea (s : State) (n : Fin 8) : Addr :=
  let g := s.gen n
  let a := (g.i &&& g.mask) ||| g.base
  if s.mstat.getLsbD Mode.reverse && Config.revScope.contains n then bitRev a else a

/-- The index `Modify(n, m)` leaves in a generator, given the modify value (R205). -/
def modifyIndex (g : Gen) (m : Word) : Addr :=
  let t : Int := g.i.toNat + (m.setWidth 14).toInt
  let t :=
    if t < g.base.toNat then t + g.l.toNat
    else if t ≥ g.base.toNat + g.l.toNat then t - g.l.toNat
    else t
  BitVec.ofInt 14 t

/-- `Modify(n, m)` (R205). -/
def modify (n m : Fin 8) (s : State) : State :=
  s.setGen n { s.gen n with i := modifyIndex (s.gen n) (s.gen m).m }

/-- A write of `I[n]` (R206). -/
def writeI (n : Fin 8) (v : Word) (s : State) : State :=
  let g := s.gen n
  s.setGen n { g with i := v.setWidth 14, base := v.setWidth 14 &&& ~~~g.mask }

/-- A write of `M[n]` (R207). -/
def writeM (n : Fin 8) (v : Word) (s : State) : State := s.setGen n { s.gen n with m := extM v }

/-- A write of `L[n]` (R207). -/
def writeL (n : Fin 8) (v : Word) (s : State) : State :=
  let g := s.gen n
  let mask := maskTable (v.setWidth 14)
  s.setGen n { g with l := v.setWidth 14, mask := mask, base := g.i &&& ~~~mask }

/-! ## The condition with its counter (spec/40_condition.md R104) -/

/-- `Cond(c)`: the boolean and the state after, which differs only for code 14 (R104). -/
def evalCond (c : Cond) (s : State) : Bool × State :=
  match c with
  | .notCe =>
    let s1 := s.setCntr (s.cntr - 1)
    if s.cntr.toNat > 1 then (true, s1) else (false, popCntr s1)
  | c => (condTable c s.astat, s)

/-! ## Interrupts (spec/60_exceptions.md R303 to R308) -/

/-- Line `n` is active: its latch in edge mode, its level otherwise (R304). -/
def lineActive (s : State) (n : Fin 4) : Bool :=
  if s.icntl.getLsbD n.val then s.irqLatch.getLsbD n.val else s.irqLevel.getLsbD n.val

/-- The line the arbitration pass takes: the first of `PRIORITY` that is active and enabled (R306). -/
def takenLine (s : State) : Option (Fin 4) :=
  Config.priority.find? fun n => lineActive s n && s.imask.getLsbD n.val

/-- `NewMask(n)` (R308). -/
def newMask (n : Fin 4) (imask : BitVec 4) (icntl : BitVec 5) : BitVec 4 :=
  if icntl.getLsbD nestBit then imask &&& ~~~(BitVec.ofNat 4 (2 * 2 ^ n.val - 1))
  else
    match Config.nestOffPolicy with
    | .ownBitOnly => imask &&& ~~~(BitVec.ofNat 4 (2 ^ n.val))
    | .all => 0

/-- TAKING AN INTERRUPT: `Enter(n)`, in the order of R307, and the acknowledge that the host sees
(R310, spec/90_conflicts.md C11; log 6). -/
def enter (n : Fin 4) (s : State) : State :=
  let s := s.record (.irqAck n)
  let s := s.setIrqLatch (putBit s.irqLatch n.val false)
  let s := pushPc s.pc s
  let s := pushSts s
  let s := s.setPc (Config.vector n)
  let s := s.setIdle false
  s.setImask (newMask n s.imask s.icntl)

/-- RETURNING FROM ONE: `PC <- PopPC(); PopSts()` (R311, spec/45_control.md R249). -/
def returnFromInterrupt (s : State) : State := popSts ((popPc s).setPc (topPc s))

/-- `Arbitrate()` (R306). -/
def arbitrate (s : State) : State :=
  match takenLine s with
  | some n => enter n s
  | none => s

/-! ## The sequencing of a step (spec/30_encoding.md R71) -/

/-- Step 3: the word at `PC`. -/
def fetch (s : State) : OpWord := pmRead s s.pc

/-- Step 3, the state after the read. -/
def afterFetch (s : State) : State := afterPmRead s.pc s

/-- Step 4: the loop check, with `PC` still the fetch address; it chooses the next `PC`. -/
def loopCheck (s : State) : State :=
  if s.loopEnd = some s.pc then
    let r := evalCond (Cond.ofCode s.loopTerm) s
    if r.1 then r.2.setPc (topPc r.2)
    else
      let s1 := popPc (popLoop r.2)
      s1.setPc (s1.pc + 1)
  else s.setPc (s.pc + 1)

/-! ## `STACK_POLICY` (spec/10_state.md R36, spec/93_implementation_defined.md U3; log 5) -/

/-- The wrapped bits of `SSTAT` (R23). -/
def wrappedBits : BitVec 8 := 0b10101010

/-- A wrapped bit is set in `t` that is not set in `s`. -/
def setsWrappedBit (s t : State) : Bool := t.sstat &&& ~~~s.sstat &&& wrappedBits != 0

/-- What answers for `r`, reached from `s`, under a policy: `refuse` refuses it where a wrapped bit would
be set. -/
def underStackPolicy (p : StackPolicy) (s : State) (r : Result) : Result :=
  match p with
  | .wrap => r
  | .refuse =>
    match r with
    | .next t => if setsWrappedBit s t then .refused .stackWrapped else .next t
    | r => r

end Sys2Proof.Machine
end

