-- ==== Sys2Proof/Machine/Operands.lean ====
section
/-! DEFINITION. The operand forms: compute operands (spec/30_encoding.md R75, R76), register slices
(spec/10_state.md R13, R14) and the grouped register read and write (spec/44_dag_moves.md R210 to
R216). -/

namespace Sys2Proof.Machine

/-! ## Slices -/

/-- `MR0` (R13). -/
def Bank.mr0 (b : Bank) : Word := b.mr.extractLsb' 0 16

/-- `MR1` (R13). -/
def Bank.mr1 (b : Bank) : Word := b.mr.extractLsb' 16 16

/-- `MR2`, read sign-extended from 8 bits (R13). -/
def Bank.mr2 (b : Bank) : Word := (b.mr.extractLsb' 32 8).signExtend 16

/-- `SR0` (R14). -/
def Bank.sr0 (b : Bank) : Word := b.sr.extractLsb' 0 16

/-- `SR1` (R14). -/
def Bank.sr1 (b : Bank) : Word := b.sr.extractLsb' 16 16

/-- A write of `MR0` (R211). -/
def Bank.putMr0 (b : Bank) (v : Word) : Bank := { b with mr := cat (b.mr.extractLsb' 16 24) v }

/-- A write of `MR1`, which sign-extends into `MR2` (R212). -/
def Bank.putMr1 (b : Bank) (v : Word) : Bank :=
  { b with mr := cat (v.signExtend 24) (b.mr.extractLsb' 0 16) }

/-- A write of `MR2`, which keeps 8 bits (R212). -/
def Bank.putMr2 (b : Bank) (v : Word) : Bank :=
  { b with mr := cat (v.setWidth 8) (b.mr.extractLsb' 0 32) }

/-- A write of `SR0` (R211). -/
def Bank.putSr0 (b : Bank) (v : Word) : Bank := { b with sr := cat (b.sr.extractLsb' 16 16) v }

/-- A write of `SR1` (R211). -/
def Bank.putSr1 (b : Bank) (v : Word) : Bank := { b with sr := cat v (b.sr.extractLsb' 0 16) }

/-- The 16-bit cell `SE` keeps of a written value (R212). -/
def extSe (v : Word) : Word := (v.setWidth 8).signExtend 16

/-- The 16-bit cell `SB` keeps of a written value (R214). -/
def extSb (v : Word) : Word := (v.setWidth 5).signExtend 16

/-! ## Compute operands -/

/-- X operand of the ALU (R75). -/
def aluX (b : Bank) : Xop → Word
  | .x0 => b.ax0
  | .x1 => b.ax1
  | .ar => b.ar
  | .mr0 => b.mr0
  | .mr1 => b.mr1
  | .mr2 => b.mr2
  | .sr0 => b.sr0
  | .sr1 => b.sr1

/-- X operand of the MAC (R75). -/
def macX (b : Bank) : Xop → Word
  | .x0 => b.mx0
  | .x1 => b.mx1
  | .ar => b.ar
  | .mr0 => b.mr0
  | .mr1 => b.mr1
  | .mr2 => b.mr2
  | .sr0 => b.sr0
  | .sr1 => b.sr1

/-- Input of the shifter; code 1 selects `SI` too (R75). -/
def shiftX (b : Bank) : Xop → Word
  | .x0 => b.si
  | .x1 => b.si
  | .ar => b.ar
  | .mr0 => b.mr0
  | .mr1 => b.mr1
  | .mr2 => b.mr2
  | .sr0 => b.sr0
  | .sr1 => b.sr1

/-- Y operand of the ALU (R76); `zero` is the `ZERO` register (R15). -/
def aluY (b : Bank) : Yop → Word
  | .y0 => b.ay0
  | .y1 => b.ay1
  | .f => b.af
  | .zero => 0

/-- Y operand of the MAC (R76); `zero` is the `ZERO` register (R15). -/
def macY (b : Bank) : Yop → Word
  | .y0 => b.my0
  | .y1 => b.my1
  | .f => b.mf
  | .zero => 0

/-! ## Register groups -/

/-- A group 0 register of a bank (R211). -/
def Bank.read (b : Bank) : Dreg → Word
  | .ax0 => b.ax0
  | .ax1 => b.ax1
  | .mx0 => b.mx0
  | .mx1 => b.mx1
  | .ay0 => b.ay0
  | .ay1 => b.ay1
  | .my0 => b.my0
  | .my1 => b.my1
  | .si => b.si
  | .se => b.se
  | .ar => b.ar
  | .mr0 => b.mr0
  | .mr1 => b.mr1
  | .mr2 => b.mr2
  | .sr0 => b.sr0
  | .sr1 => b.sr1

/-- A bank with a group 0 register written (R211, R212). -/
def Bank.write (b : Bank) (d : Dreg) (v : Word) : Bank :=
  match d with
  | .ax0 => { b with ax0 := v }
  | .ax1 => { b with ax1 := v }
  | .mx0 => { b with mx0 := v }
  | .mx1 => { b with mx1 := v }
  | .ay0 => { b with ay0 := v }
  | .ay1 => { b with ay1 := v }
  | .my0 => { b with my0 := v }
  | .my1 => { b with my1 := v }
  | .si => { b with si := v }
  | .se => { b with se := extSe v }
  | .ar => { b with ar := v }
  | .mr0 => b.putMr0 v
  | .mr1 => b.putMr1 v
  | .mr2 => b.putMr2 v
  | .sr0 => b.putSr0 v
  | .sr1 => b.putSr1 v

/-- `RdReg(0, d)` (R211). -/
def rdDreg (s : State) (d : Dreg) : Word := s.bank.read d

/-- `WrReg(0, d, v)` (R211). -/
def wrDreg (d : Dreg) (v : Word) (s : State) : State := s.setBank (s.bank.write d v)

/-- The generator whose register an index of group 1 (`base` 0) or 2 (`base` 4) names (R213). -/
def dagGen (upper : Bool) (r : BitVec 4) : Fin 8 :=
  genOf (BitVec.ofBool upper) (r.extractLsb' 0 2)

/-- `RdReg` of groups 1 and 2 (R213); index 12 to 15 is the `ZERO` slot (R216). -/
def rdDag (s : State) (upper : Bool) (r : BitVec 4) : Word :=
  let g := s.gen (dagGen upper r)
  match (r.extractLsb' 2 2).toNat with
  | 0 => g.i.setWidth 16
  | 1 => g.m
  | 2 => g.l.setWidth 16
  | _ => 0

/-- `WrReg` of groups 1 and 2 (R213); index 12 to 15 is ignored (R216). -/
def wrDag (upper : Bool) (r : BitVec 4) (v : Word) (s : State) : State :=
  let n := dagGen upper r
  match (r.extractLsb' 2 2).toNat with
  | 0 => writeI n v s
  | 1 => writeM n v s
  | 2 => writeL n v s
  | _ => s

/-- `RdReg(3, r)` (R214); index 8 to 15 is the `ZERO` slot (R216). -/
def rdCtl (s : State) (r : BitVec 4) : Word :=
  match r.toNat with
  | 0 => s.astat.setWidth 16
  | 1 => s.mstat.setWidth 16
  | 2 => s.sstat.setWidth 16
  | 3 => s.imask.setWidth 16
  | 4 => s.icntl.setWidth 16
  | 5 => s.cntr
  | 6 => s.bank.sb
  | 7 => s.px.setWidth 16
  | _ => 0

/-- `WrReg(3, r, v)` (R214): `SSTAT` is read-only, a write of `CNTR` pushes the old value first; index 8
to 15 is ignored (R216). -/
def wrCtl (r : BitVec 4) (v : Word) (s : State) : State :=
  match r.toNat with
  | 0 => s.setAstat (v.setWidth 8)
  | 1 => s.setMstat (v.setWidth 4)
  | 3 => s.setImask (v.setWidth 4)
  | 4 => s.setIcntl (v.setWidth 5)
  | 5 => (pushCntr s).setCntr v
  | 6 => s.setBank { s.bank with sb := extSb v }
  | 7 => s.setPx (v.setWidth 8)
  | _ => s

/-- `RdReg(g, i)` (R210). -/
def rdReg (s : State) (g : RegGroup) (r : BitVec 4) : Word :=
  match g with
  | .data => rdDreg s (Dreg.ofCode r)
  | .dag1 => rdDag s false r
  | .dag2 => rdDag s true r
  | .ctl => rdCtl s r

/-- `WrReg(g, i, v)` (R210). -/
def wrReg (g : RegGroup) (r : BitVec 4) (v : Word) (s : State) : State :=
  match g with
  | .data => wrDreg (Dreg.ofCode r) v s
  | .dag1 => wrDag false r v s
  | .dag2 => wrDag true r v s
  | .ctl => wrCtl r v s

/-- The register `DD` of the dual fetch names (R77). -/
def dualXReg : DualX → Dreg
  | .ax0 => .ax0
  | .ax1 => .ax1
  | .mx0 => .mx0
  | .mx1 => .mx1

/-- The register `PD` of the dual fetch names (R77). -/
def dualYReg : DualY → Dreg
  | .ay0 => .ay0
  | .ay1 => .ay1
  | .my0 => .my0
  | .my1 => .my1

/-- The result register of a compute operation in words: `Z` = 1 writes `AF` (R110). -/
def Bank.putAlu (b : Bank) (z : Bool) (r : Word) : Bank := if z then { b with af := r } else { b with ar := r }

end Sys2Proof.Machine
end

