-- ==== Sys2Proof/Machine/Control.lean ====
section
/-! DEFINITION. Program control: spec/45_control.md. When a meaning runs, `PC` already holds the address
the loop check chose (R241). -/

namespace Sys2Proof.Machine

/-- `NOP` (R240). -/
def execNop (s : State) : Result := .next s

/-- Reserved primary opcode `0x01`, a `NOP` (spec/30_encoding.md R87; log 9). -/
def execReserved01 (s : State) : Result := .next s

/-- Reserved primary opcode `0x02` with `op[15]` = 0, a `NOP` (spec/30_encoding.md R87, R90; log 9). -/
def execReserved02 (s : State) : Result := .next s

/-- Reserved primary opcode `0x03`, a `NOP` (spec/30_encoding.md R87, R90; log 9). -/
def execReserved03 (s : State) : Result := .next s

/-- Reserved primary opcode `0x08`, a `NOP` (spec/30_encoding.md R87; log 9). -/
def execReserved08 (s : State) : Result := .next s

/-- `IDLE` (R255). -/
def execIdle (s : State) : Result := .next (s.setIdle true)

/-- `STK`, the pops and the status push or pop, in this order (R250). -/
def execStk (p l c : Bool) (sts : BitVec 2) (s : State) : Result :=
  let s := if p then popPc s else s
  let s := if l then popLoop s else s
  let s := if c then popCntr s else s
  .next (if sts.getLsbD 1 then (if sts.getLsbD 0 then popSts s else pushSts s) else s)

/-- `DO addr UNTIL term` (R243). -/
def execDoUntil (a : Addr) (t : BitVec 4) (s : State) : Result :=
  let s := pushLoop a t s
  .next (pushPc s.pc s)

/-- The effect `k` under the condition `c` (spec/40_condition.md R106): the condition first. -/
def condDo (c : Cond) (k : State → State) (s : State) : Result :=
  let r := evalCond c s
  .next (if r.1 then k r.2 else r.2)

/-- `JUMP addr` (R245). -/
def execJump (a : Addr) (c : Cond) (s : State) : Result := condDo c (fun s => s.setPc a) s

/-- `CALL addr` (R246). -/
def execCall (a : Addr) (c : Cond) (s : State) : Result :=
  condDo c (fun s => (pushPc s.pc s).setPc a) s

/-- `JUMP (In)` (R247). -/
def execJumpInd (n : Fin 8) (c : Cond) (s : State) : Result :=
  condDo c (fun s => s.setPc (s.gen n).i) s

/-- `CALL (In)` (R247). -/
def execCallInd (n : Fin 8) (c : Cond) (s : State) : Result :=
  condDo c (fun s => (pushPc s.pc s).setPc (s.gen n).i) s

/-- `RTS` (R248). -/
def execRts (c : Cond) (s : State) : Result := condDo c (fun s => (popPc s).setPc (topPc s)) s

/-- `RTI` (R249). -/
def execRti (c : Cond) (s : State) : Result := condDo c returnFromInterrupt s

/-- One mode bit under its 2-bit code: `10` clears, `11` sets, `00` and `01` leave (R252). -/
def modeBit (code : BitVec 2) (k : Nat) (v : BitVec 4) : BitVec 4 :=
  if code.getLsbD 1 then putBit v k (code.getLsbD 0) else v

/-- `ENA` / `DIS` mode control (R252). -/
def execMode (arSat avLatch reverse bank : BitVec 2) (s : State) : Result :=
  .next <|
    s.setMstat
      (modeBit arSat Mode.arSat
        (modeBit avLatch Mode.avLatch (modeBit reverse Mode.reverse (modeBit bank Mode.bank s.mstat))))

end Sys2Proof.Machine
end

