-- ==== Sys2Proof/Machine/Moves.lean ====
section
/-! DEFINITION. The move instructions: spec/44_dag_moves.md R220 to R228. -/

namespace Sys2Proof.Machine

/-- `reg = reg` (R220): the source is read in the bank before the write. Where R220's "source and
destination equal: no change" and its pseudocode differ (`MR1 = MR1`, `I = I`, `L = L`), the pseudocode
with the write side effects of R206, R207, R212 is followed; DEDUCED, log 25. -/
def execMove (dg : RegGroup) (di : BitVec 4) (sg : RegGroup) (si : BitVec 4) (s : State) : Result :=
  .next (wrReg dg di (rdReg s sg si) s)

/-- `dreg = data16` (R222). -/
def execLoadImm16 (v : Word) (d : Dreg) (s : State) : Result := .next (wrDreg d v s)

/-- `reg = data14`, the immediate sign-extended to 16 bits (R223). -/
def execLoadImm14 (g : RegGroup) (v : BitVec 14) (r : BitVec 4) (s : State) : Result :=
  .next (wrReg g r (v.signExtend 16) s)

/-- `reg = DM(addr)` (R225). -/
def execLoadDirect (g : RegGroup) (a : Addr) (r : BitVec 4) (s : State) : Result :=
  .next (wrReg g r (dmRead s a) (afterDmRead a s))

/-- `DM(addr) = reg` (R226). -/
def execStoreDirect (g : RegGroup) (a : Addr) (r : BitVec 4) (s : State) : Result :=
  .next (dmWrite a (rdReg s g r) s)

/-- `DM(In, Mm) = data16` (R227). -/
def execStoreImm (v : Word) (n m : Fin 8) (s : State) : Result :=
  .next (modify n m (dmWrite (ea s n) v s))

/-- `MODIFY (In, Mm)` (R228). -/
def execModify (n m : Fin 8) (s : State) : Result := .next (modify n m s)

end Sys2Proof.Machine
end

