-- ==== Sys2Proof/Machine/Alu.lean ====
section
/-! DEFINITION. The ALU and the divide primitives: spec/41_alu.md. -/

namespace Sys2Proof.Machine

/-- The 16 ALU functions of the operands `x`, `y` and the carry `c` before the instruction (R116 to
R131). -/
def aluOut (f : AluFn) (x y : Word) (c : Bool) : AluOut :=
  match f with
  | .passY => logicOut y
  | .incY => addc y 0 true
  | .addC => addc x y c
  | .add => addc x y false
  | .notY => logicOut (~~~y)
  | .negY => addc 0 (~~~y) true
  | .subC => addc x (~~~y) c
  | .sub => addc x (~~~y) true
  | .decY => addc y 0xFFFF false
  | .rsub => addc y (~~~x) true
  | .rsubC => addc y (~~~x) c
  | .notX => logicOut (~~~x)
  | .andXY => logicOut (x &&& y)
  | .orXY => logicOut (x ||| y)
  | .xorXY => logicOut (x ^^^ y)
  | .absX => absOut x

/-- The value that goes to the result register: saturated only into `AR`, on the operation's own
overflow, under `MSTAT[3]` (R115). -/
def aluSat (mstat : BitVec 4) (z : Bool) (o : AluOut) : Word :=
  if mstat.getLsbD Mode.arSat && o.ovf && !z then
    if o.carry then 0x8000 else 0x7FFF
  else o.r

/-- The flags after an ALU function: those of R113, and `AS` for `ABS` (R131). -/
def aluAstat (f : AluFn) (mstat : BitVec 4) (astat : BitVec 8) (x : Word) (o : AluOut) : BitVec 8 :=
  let flags := aluFlags mstat astat o
  match f with
  | .absX => putBit flags Flag.asn x.msb
  | _ => flags

/-- `AluOp(AMF, XOP, YOP, Z)` (R110). -/
def aluOp (f : AluFn) (z : Bool) (yop : Yop) (xop : Xop) (s : State) : State :=
  let b := s.bank
  let x := aluX b xop
  let o := aluOut f x (aluY b yop) (s.astat.getLsbD Flag.ac)
  (s.setBank (b.putAlu z (aluSat s.mstat z o))).setAstat (aluAstat f s.mstat s.astat x o)

/-- What a divide step leaves in `AF`, `AY0` and `AQ`: the partial remainder `r` shifted left with the top
bit of `AY0`, `AY0` shifted left with the bit `qbit` (R132, R133). -/
def divShift (r : Word) (qbit aq : Bool) (s : State) : State :=
  let b := s.bank
  (s.setBank
      { b with
        af := cat (r.extractLsb' 0 15) (b.ay0.extractLsb' 15 1)
        ay0 := cat (b.ay0.extractLsb' 0 15) (BitVec.ofBool qbit) }).setAstat
    (putBit s.astat Flag.aq aq)

/-- `DIVS yop, xop` (R132). -/
def execDivs (y : Yop) (x : Xop) (s : State) : Result :=
  let yv := aluY s.bank y
  let q := (aluX s.bank x).msb ^^ yv.msb
  .next (divShift yv q q s)

/-- `DIVQ xop` (R133). -/
def execDivq (x : Xop) (s : State) : Result :=
  let xv := aluX s.bank x
  let r := if s.astat.getLsbD Flag.aq then s.bank.af + xv else s.bank.af - xv
  let q := r.msb ^^ xv.msb
  .next (divShift r (!q) q s)

end Sys2Proof.Machine
end

