-- ==== Sys2Proof/Machine/Mac.lean ====
section
/-! DEFINITION. The multiplier-accumulator and the saturation of MR: spec/42_mac.md. -/

namespace Sys2Proof.Machine

/-- What a MAC function does with the product: replace, add, subtract (R142). -/
inductive MacAcc where
  | mul | add | sub
deriving DecidableEq, Repr

/-- The accumulation of a function (R145 to R160). -/
def macAcc : MacFn → MacAcc
  | .nop | .mulRnd | .mulSS | .mulSU | .mulUS | .mulUU => .mul
  | .addRnd | .addSS | .addSU | .addUS | .addUU => .add
  | .subRnd | .subSS | .subSU | .subUS | .subUU => .sub

/-- X is read signed (R141): every format but `(US)` and `(UU)`. -/
def macXSigned : MacFn → Bool
  | .mulUS | .mulUU | .addUS | .addUU | .subUS | .subUU => false
  | _ => true

/-- Y is read signed (R141): every format but `(SU)` and `(UU)`. -/
def macYSigned : MacFn → Bool
  | .mulSU | .mulUU | .addSU | .addUU | .subSU | .subUU => false
  | _ => true

/-- The function rounds (R143). -/
def macRounds : MacFn → Bool
  | .mulRnd | .addRnd | .subRnd => true
  | _ => false

/-- A 16-bit operand as an integer (R141). -/
def macInt (signed : Bool) (v : Word) : Int := if signed then v.toInt else v.toNat

/-- The exact sum `S` (R142): `P = 2 * x * y`, added to or subtracted from the signed `MR`. -/
def macSum (f : MacFn) (mr : BitVec 40) (x y : Word) : Int :=
  let p := 2 * macInt (macXSigned f) x * macInt (macYSigned f) y
  match macAcc f with
  | .mul => p
  | .add => mr.toInt + p
  | .sub => mr.toInt - p

/-- Rounding at bit 16, a tie to the even value (R143). -/
def macRound (sum : Int) : BitVec 40 :=
  let r := BitVec.ofInt 40 (sum + 0x8000)
  if BitVec.ofInt 16 sum = 0x8000 then putBit r 16 false else r

/-- The 40-bit result `R` (R142, R143). -/
def macOut (f : MacFn) (mr : BitVec 40) (x y : Word) : BitVec 40 :=
  let sum := macSum f mr x y
  if macRounds f then macRound sum else BitVec.ofInt 40 sum

/-- `MacOp(AMF, XOP, YOP, Z)` (R140); the no operation does nothing (R145). -/
def macOp (f : MacFn) (z : Bool) (yop : Yop) (xop : Xop) (s : State) : State :=
  match f with
  | .nop => s
  | f =>
    let b := s.bank
    let r := macOut f b.mr (macX b xop) (macY b yop)
    let b := if z then { b with mf := r.extractLsb' 16 16 } else { b with mr := r }
    (s.setBank b).setAstat (putBit s.astat Flag.mv (mvOf r))

/-- `SAT MR` (R161). -/
def execSatMr (s : State) : Result :=
  .next <|
    if s.astat.getLsbD Flag.mv then
      s.setBank { s.bank with mr := if s.bank.mr.msb then Config.mrSatNeg else 0x007FFFFFFF }
    else s

end Sys2Proof.Machine
end

