-- ==== Sys2Proof/Machine/Multi.lean ====
section
/-! DEFINITION. The compute and multifunction instructions: spec/46_multifunction.md. -/

namespace Sys2Proof.Machine

/-- `Compute(Z, AMF, YOP, XOP)`: `AMF[4]` selects the unit. -/
def compute (f : Amf) (z : Bool) (y : Yop) (x : Xop) (s : State) : State :=
  match f with
  | .alu f => aluOp f z y x s
  | .mac f => macOp f z y x s

/-- `CC`, a conditional ALU or MAC operation (R281): the condition first, on the flags before the
instruction. -/
def condCompute (f : Amf) (z : Bool) (y : Yop) (x : Xop) (c : Cond) (s : State) : Result :=
  let r := evalCond c s
  .next (if r.1 then compute f z y x r.2 else r.2)

/-! ## The conditional operations, one for each `AMF` code (R282) -/

/-- `(no operation)` (R145). -/
def execCcNop (z : Bool) (y : Yop) (x : Xop) (c : Cond) (s : State) : Result :=
  condCompute (.mac .nop) z y x c s

/-- `X*Y (RND)` (R146). -/
def execCcMulRnd (z : Bool) (y : Yop) (x : Xop) (c : Cond) (s : State) : Result :=
  condCompute (.mac .mulRnd) z y x c s

/-- `MR+X*Y (RND)` (R147). -/
def execCcAddRnd (z : Bool) (y : Yop) (x : Xop) (c : Cond) (s : State) : Result :=
  condCompute (.mac .addRnd) z y x c s

/-- `MR-X*Y (RND)` (R148). -/
def execCcSubRnd (z : Bool) (y : Yop) (x : Xop) (c : Cond) (s : State) : Result :=
  condCompute (.mac .subRnd) z y x c s

/-- `X*Y (SS)` (R149). -/
def execCcMulSS (z : Bool) (y : Yop) (x : Xop) (c : Cond) (s : State) : Result :=
  condCompute (.mac .mulSS) z y x c s

/-- `X*Y (SU)` (R150). -/
def execCcMulSU (z : Bool) (y : Yop) (x : Xop) (c : Cond) (s : State) : Result :=
  condCompute (.mac .mulSU) z y x c s

/-- `X*Y (US)` (R151). -/
def execCcMulUS (z : Bool) (y : Yop) (x : Xop) (c : Cond) (s : State) : Result :=
  condCompute (.mac .mulUS) z y x c s

/-- `X*Y (UU)` (R152). -/
def execCcMulUU (z : Bool) (y : Yop) (x : Xop) (c : Cond) (s : State) : Result :=
  condCompute (.mac .mulUU) z y x c s

/-- `MR+X*Y (SS)` (R153). -/
def execCcAddSS (z : Bool) (y : Yop) (x : Xop) (c : Cond) (s : State) : Result :=
  condCompute (.mac .addSS) z y x c s

/-- `MR+X*Y (SU)` (R154). -/
def execCcAddSU (z : Bool) (y : Yop) (x : Xop) (c : Cond) (s : State) : Result :=
  condCompute (.mac .addSU) z y x c s

/-- `MR+X*Y (US)` (R155). -/
def execCcAddUS (z : Bool) (y : Yop) (x : Xop) (c : Cond) (s : State) : Result :=
  condCompute (.mac .addUS) z y x c s

/-- `MR+X*Y (UU)` (R156). -/
def execCcAddUU (z : Bool) (y : Yop) (x : Xop) (c : Cond) (s : State) : Result :=
  condCompute (.mac .addUU) z y x c s

/-- `MR-X*Y (SS)` (R157). -/
def execCcSubSS (z : Bool) (y : Yop) (x : Xop) (c : Cond) (s : State) : Result :=
  condCompute (.mac .subSS) z y x c s

/-- `MR-X*Y (SU)` (R158). -/
def execCcSubSU (z : Bool) (y : Yop) (x : Xop) (c : Cond) (s : State) : Result :=
  condCompute (.mac .subSU) z y x c s

/-- `MR-X*Y (US)` (R159). -/
def execCcSubUS (z : Bool) (y : Yop) (x : Xop) (c : Cond) (s : State) : Result :=
  condCompute (.mac .subUS) z y x c s

/-- `MR-X*Y (UU)` (R160). -/
def execCcSubUU (z : Bool) (y : Yop) (x : Xop) (c : Cond) (s : State) : Result :=
  condCompute (.mac .subUU) z y x c s

/-- `PASS Y` (R116). -/
def execCcPassY (z : Bool) (y : Yop) (x : Xop) (c : Cond) (s : State) : Result :=
  condCompute (.alu .passY) z y x c s

/-- `Y+1` (R117). -/
def execCcIncY (z : Bool) (y : Yop) (x : Xop) (c : Cond) (s : State) : Result :=
  condCompute (.alu .incY) z y x c s

/-- `X+Y+C` (R118). -/
def execCcAddC (z : Bool) (y : Yop) (x : Xop) (c : Cond) (s : State) : Result :=
  condCompute (.alu .addC) z y x c s

/-- `X+Y` (R119). -/
def execCcAdd (z : Bool) (y : Yop) (x : Xop) (c : Cond) (s : State) : Result :=
  condCompute (.alu .add) z y x c s

/-- `NOT Y` (R120). -/
def execCcNotY (z : Bool) (y : Yop) (x : Xop) (c : Cond) (s : State) : Result :=
  condCompute (.alu .notY) z y x c s

/-- `-Y` (R121). -/
def execCcNegY (z : Bool) (y : Yop) (x : Xop) (c : Cond) (s : State) : Result :=
  condCompute (.alu .negY) z y x c s

/-- `X-Y+C-1` (R122). -/
def execCcSubC (z : Bool) (y : Yop) (x : Xop) (c : Cond) (s : State) : Result :=
  condCompute (.alu .subC) z y x c s

/-- `X-Y` (R123). -/
def execCcSub (z : Bool) (y : Yop) (x : Xop) (c : Cond) (s : State) : Result :=
  condCompute (.alu .sub) z y x c s

/-- `Y-1` (R124). -/
def execCcDecY (z : Bool) (y : Yop) (x : Xop) (c : Cond) (s : State) : Result :=
  condCompute (.alu .decY) z y x c s

/-- `Y-X` (R125). -/
def execCcRsub (z : Bool) (y : Yop) (x : Xop) (c : Cond) (s : State) : Result :=
  condCompute (.alu .rsub) z y x c s

/-- `Y-X+C-1` (R126). -/
def execCcRsubC (z : Bool) (y : Yop) (x : Xop) (c : Cond) (s : State) : Result :=
  condCompute (.alu .rsubC) z y x c s

/-- `NOT X` (R127). -/
def execCcNotX (z : Bool) (y : Yop) (x : Xop) (c : Cond) (s : State) : Result :=
  condCompute (.alu .notX) z y x c s

/-- `X AND Y` (R128). -/
def execCcAndXY (z : Bool) (y : Yop) (x : Xop) (c : Cond) (s : State) : Result :=
  condCompute (.alu .andXY) z y x c s

/-- `X OR Y` (R129). -/
def execCcOrXY (z : Bool) (y : Yop) (x : Xop) (c : Cond) (s : State) : Result :=
  condCompute (.alu .orXY) z y x c s

/-- `X XOR Y` (R130). -/
def execCcXorXY (z : Bool) (y : Yop) (x : Xop) (c : Cond) (s : State) : Result :=
  condCompute (.alu .xorXY) z y x c s

/-- `ABS X` (R131). -/
def execCcAbsX (z : Bool) (y : Yop) (x : Xop) (c : Cond) (s : State) : Result :=
  condCompute (.alu .absX) z y x c s

/-! ## Compute with a move -/

/-- `CM`, compute with register move (R283). -/
def execComputeMove (f : Amf) (z : Bool) (y : Yop) (x : Xop) (d sd : Dreg) (s : State) : Result :=
  let v := rdDreg s sd
  .next (wrDreg d v (compute f z y x s))

/-- `CPM` read, compute with program-memory read (R284). -/
def execComputePmRead (f : Amf) (z : Bool) (y : Yop) (x : Xop) (d : Dreg) (n m : Fin 8) (s : State) :
    Result :=
  let a := ea s n
  let s := compute f z y x s
  let w := pmRead s a
  let s := modify n m ((afterPmRead a s).setPx (w.extractLsb' 0 8))
  .next (wrDreg d (w.extractLsb' 8 16) s)

/-- `CPM` write, compute with program-memory write (R285). -/
def execComputePmWrite (f : Amf) (z : Bool) (y : Yop) (x : Xop) (d : Dreg) (n m : Fin 8) (s : State) :
    Result :=
  let a := ea s n
  let v := rdDreg s d
  let p := s.px
  let s := compute f z y x s
  .next (modify n m (pmWrite a (cat v p) s))

/-- `CDM` read, compute with data-memory read (R286). -/
def execComputeDmRead (f : Amf) (z : Bool) (y : Yop) (x : Xop) (d : Dreg) (n m : Fin 8) (s : State) :
    Result :=
  let a := ea s n
  let s := compute f z y x s
  let v := dmRead s a
  .next (wrDreg d v (modify n m (afterDmRead a s)))

/-- `CDM` write, compute with data-memory write (R287). -/
def execComputeDmWrite (f : Amf) (z : Bool) (y : Yop) (x : Xop) (d : Dreg) (n m : Fin 8) (s : State) :
    Result :=
  let a := ea s n
  let v := rdDreg s d
  let s := compute f z y x s
  .next (modify n m (dmWrite a v s))

/-- `DUAL`, compute with dual operand fetch (R288): the result goes to `AR` or `MR`; the data-memory read
comes first. -/
def execComputeDual (f : Amf) (y : Yop) (x : Xop) (dx : DualX) (dn dm : Fin 8) (dy : DualY)
    (pn pm : Fin 8) (s : State) : Result :=
  let ad := ea s dn
  let ap := ea s pn
  let s := compute f false y x s
  let vd := dmRead s ad
  let s := afterDmRead ad s
  let w := pmRead s ap
  let s := modify pn pm (modify dn dm ((afterPmRead ap s).setPx (w.extractLsb' 0 8)))
  .next (wrDreg (dualYReg dy) (w.extractLsb' 8 16) (wrDreg (dualXReg dx) vd s))

end Sys2Proof.Machine
end

