-- ==== Sys2Proof/Machine/Shifter.lean ====
section
/-! DEFINITION. The barrel shifter: spec/43_shifter.md. -/

namespace Sys2Proof.Machine

/-- `ShL(v, k)` (R171). -/
def shL (v : Int) (k : Nat) : BitVec 32 := if k < 32 then BitVec.ofInt 32 (v * 2 ^ k) else 0

/-- `ShR(v, k)`: the quotient is the floor (R171). -/
def shR (v : Int) (k : Nat) : BitVec 32 := BitVec.ofInt 32 (v / 2 ^ k)

/-- `Sh(v, s)` (R171). -/
def sh (v s : Int) : BitVec 32 := if 0 ≤ s then shL v s.toNat else shR v (-s).toNat

/-- `LSHIFT (HI)` (R172). -/
def lshiftHi (x : Word) (sc : Int) : BitVec 32 := sh (x.toNat * 2 ^ 16) sc

/-- `LSHIFT (LO)` (R174). -/
def lshiftLo (x : Word) (sc : Int) : BitVec 32 := sh x.toNat sc

/-- `ASHIFT (HI)` (R176). -/
def ashiftHi (x : Word) (sc : Int) : BitVec 32 := sh (x.toInt * 2 ^ 16) sc

/-- `ASHIFT (LO)` (R178). -/
def ashiftLo (x : Word) (sc : Int) : BitVec 32 := sh x.toInt sc

/-- `NORM (HI)`: a right shift brings in the carry, as bit 32 of a signed 33-bit value (R180). -/
def normHi (x : Word) (sc : Int) (ac : Bool) : BitVec 32 :=
  let n := -sc
  if 0 ≤ n then shL (x.toNat * 2 ^ 16) n.toNat
  else shR (cat (BitVec.ofBool ac) (cat x 0#16)).toInt (-n).toNat

/-- `NORM (LO)` (R182). -/
def normLo (x : Word) (sc : Int) : BitVec 32 := sh x.toNat (-sc)

/-- The number of bits of `x` from bit `k - 1` downward that equal `b`, up to the first that differs. -/
def runLength (x : Word) (b : Bool) : Nat → Nat
  | 0 => 0
  | k + 1 => if x.getLsbD k = b then runLength x b k + 1 else 0

/-- `red(x)`, the number of redundant sign bits (R184). -/
def red (x : Word) : Nat := runLength x x.msb 15

/-- `trunc_16(-k)`. -/
def negWord (k : Nat) : Word := BitVec.ofInt 16 (-(k : Int))

/-- `EXP (HI)` (R184). -/
def expHi (x : Word) (s : State) : State :=
  (s.setBank { s.bank with se := negWord (red x) }).setAstat (putBit s.astat Flag.ss x.msb)

/-- `EXP (HIX)` (R185). -/
def expHix (x : Word) (s : State) : State :=
  if s.astat.getLsbD Flag.av then
    (s.setBank { s.bank with se := 1 }).setAstat (putBit s.astat Flag.ss (!x.msb))
  else expHi x s

/-- `EXP (LO)` (R186). -/
def expLo (x : Word) (s : State) : State :=
  if s.bank.se.toInt = -15 then
    s.setBank { s.bank with se := negWord (15 + runLength x (s.astat.getLsbD Flag.ss) 16) }
  else s

/-- `EXPADJ` (R187). -/
def expAdj (x : Word) (s : State) : State :=
  if s.bank.sb.toInt < -(red x : Int) then s.setBank { s.bank with sb := negWord (red x) } else s

/-- `SR <- res` (R170). -/
def putSr (res : BitVec 32) (s : State) : State := s.setBank { s.bank with sr := res }

/-- `SR <- SR or res`, the `OR` variants (R170). -/
def orSr (res : BitVec 32) (s : State) : State := s.setBank { s.bank with sr := s.bank.sr ||| res }

/-- `ShiftOp(SF, XOP, sc)` (R170). -/
def shiftOp (f : ShiftFn) (xop : Xop) (sc : Int) (s : State) : State :=
  let x := shiftX s.bank xop
  let ac := s.astat.getLsbD Flag.ac
  match f with
  | .lshiftHi => putSr (lshiftHi x sc) s
  | .lshiftHiOr => orSr (lshiftHi x sc) s
  | .lshiftLo => putSr (lshiftLo x sc) s
  | .lshiftLoOr => orSr (lshiftLo x sc) s
  | .ashiftHi => putSr (ashiftHi x sc) s
  | .ashiftHiOr => orSr (ashiftHi x sc) s
  | .ashiftLo => putSr (ashiftLo x sc) s
  | .ashiftLoOr => orSr (ashiftLo x sc) s
  | .normHi => putSr (normHi x sc ac) s
  | .normHiOr => orSr (normHi x sc ac) s
  | .normLo => putSr (normLo x sc) s
  | .normLoOr => orSr (normLo x sc) s
  | .expHi => expHi x s
  | .expHix => expHix x s
  | .expLo => expLo x s
  | .expAdj => expAdj x s

/-- The shift code of the forms without an immediate: `sext_8(SE[7:0])` (R171). -/
def seCode (s : State) : Int := (s.bank.se.setWidth 8).toInt

/-- `SHC`, a conditional shift (R188): the condition first, on the flags before the instruction. -/
def condShift (f : ShiftFn) (x : Xop) (c : Cond) (s : State) : Result :=
  let r := evalCond c s
  .next (if r.1 then shiftOp f x (seCode r.2) r.2 else r.2)

/-- `SHI`, a shift by the immediate code (R189). -/
def immShift (f : ShiftFn) (x : Xop) (e : BitVec 8) (s : State) : Result := .next (shiftOp f x e.toInt s)

/-! ## The conditional shifts, `SHC` (R188) -/

/-- `IF cond` `LSHIFT (HI)` (R172, R188). -/
def execLshiftHi (x : Xop) (c : Cond) (s : State) : Result := condShift .lshiftHi x c s

/-- `IF cond` `LSHIFT (HI, OR)` (R173, R188). -/
def execLshiftHiOr (x : Xop) (c : Cond) (s : State) : Result := condShift .lshiftHiOr x c s

/-- `IF cond` `LSHIFT (LO)` (R174, R188). -/
def execLshiftLo (x : Xop) (c : Cond) (s : State) : Result := condShift .lshiftLo x c s

/-- `IF cond` `LSHIFT (LO, OR)` (R175, R188). -/
def execLshiftLoOr (x : Xop) (c : Cond) (s : State) : Result := condShift .lshiftLoOr x c s

/-- `IF cond` `ASHIFT (HI)` (R176, R188). -/
def execAshiftHi (x : Xop) (c : Cond) (s : State) : Result := condShift .ashiftHi x c s

/-- `IF cond` `ASHIFT (HI, OR)` (R177, R188). -/
def execAshiftHiOr (x : Xop) (c : Cond) (s : State) : Result := condShift .ashiftHiOr x c s

/-- `IF cond` `ASHIFT (LO)` (R178, R188). -/
def execAshiftLo (x : Xop) (c : Cond) (s : State) : Result := condShift .ashiftLo x c s

/-- `IF cond` `ASHIFT (LO, OR)` (R179, R188). -/
def execAshiftLoOr (x : Xop) (c : Cond) (s : State) : Result := condShift .ashiftLoOr x c s

/-- `IF cond` `NORM (HI)` (R180, R188). -/
def execNormHi (x : Xop) (c : Cond) (s : State) : Result := condShift .normHi x c s

/-- `IF cond` `NORM (HI, OR)` (R181, R188). -/
def execNormHiOr (x : Xop) (c : Cond) (s : State) : Result := condShift .normHiOr x c s

/-- `IF cond` `NORM (LO)` (R182, R188). -/
def execNormLo (x : Xop) (c : Cond) (s : State) : Result := condShift .normLo x c s

/-- `IF cond` `NORM (LO, OR)` (R183, R188). -/
def execNormLoOr (x : Xop) (c : Cond) (s : State) : Result := condShift .normLoOr x c s

/-- `IF cond` `EXP (HI)` (R184, R188). -/
def execExpHi (x : Xop) (c : Cond) (s : State) : Result := condShift .expHi x c s

/-- `IF cond` `EXP (HIX)` (R185, R188). -/
def execExpHix (x : Xop) (c : Cond) (s : State) : Result := condShift .expHix x c s

/-- `IF cond` `EXP (LO)` (R186, R188). -/
def execExpLo (x : Xop) (c : Cond) (s : State) : Result := condShift .expLo x c s

/-- `IF cond` `EXPADJ` (R187, R188). -/
def execExpAdj (x : Xop) (c : Cond) (s : State) : Result := condShift .expAdj x c s

/-! ## The immediate shifts, `SHI` (R189) -/

/-- `LSHIFT (HI)` `BY n` (R172, R189). -/
def execLshiftHiBy (x : Xop) (e : BitVec 8) (s : State) : Result := immShift .lshiftHi x e s

/-- `LSHIFT (HI, OR)` `BY n` (R173, R189). -/
def execLshiftHiOrBy (x : Xop) (e : BitVec 8) (s : State) : Result := immShift .lshiftHiOr x e s

/-- `LSHIFT (LO)` `BY n` (R174, R189). -/
def execLshiftLoBy (x : Xop) (e : BitVec 8) (s : State) : Result := immShift .lshiftLo x e s

/-- `LSHIFT (LO, OR)` `BY n` (R175, R189). -/
def execLshiftLoOrBy (x : Xop) (e : BitVec 8) (s : State) : Result := immShift .lshiftLoOr x e s

/-- `ASHIFT (HI)` `BY n` (R176, R189). -/
def execAshiftHiBy (x : Xop) (e : BitVec 8) (s : State) : Result := immShift .ashiftHi x e s

/-- `ASHIFT (HI, OR)` `BY n` (R177, R189). -/
def execAshiftHiOrBy (x : Xop) (e : BitVec 8) (s : State) : Result := immShift .ashiftHiOr x e s

/-- `ASHIFT (LO)` `BY n` (R178, R189). -/
def execAshiftLoBy (x : Xop) (e : BitVec 8) (s : State) : Result := immShift .ashiftLo x e s

/-- `ASHIFT (LO, OR)` `BY n` (R179, R189). -/
def execAshiftLoOrBy (x : Xop) (e : BitVec 8) (s : State) : Result := immShift .ashiftLoOr x e s

/-- `SHI` with `SF[3]` = 1 is reserved and has no effect (R189, spec/30_encoding.md R87). -/
def execReservedShi (s : State) : Result := .next s

/-! ## Shift with a move -/

/-- `SHM`, shift with register move (R191): the moved value is read before the shift and written last. -/
def execShiftMove (f : ShiftFn) (x : Xop) (d sd : Dreg) (s : State) : Result :=
  let v := rdDreg s sd
  .next (wrDreg d v (shiftOp f x (seCode s) s))

/-- `SHPM` read, shift with program-memory read (R192). -/
def execShiftPmRead (f : ShiftFn) (x : Xop) (d : Dreg) (n m : Fin 8) (s : State) : Result :=
  let a := ea s n
  let s := shiftOp f x (seCode s) s
  let w := pmRead s a
  let s := modify n m ((afterPmRead a s).setPx (w.extractLsb' 0 8))
  .next (wrDreg d (w.extractLsb' 8 16) s)

/-- `SHPM` write, shift with program-memory write (R192). -/
def execShiftPmWrite (f : ShiftFn) (x : Xop) (d : Dreg) (n m : Fin 8) (s : State) : Result :=
  let a := ea s n
  let v := rdDreg s d
  let p := s.px
  let s := shiftOp f x (seCode s) s
  .next (modify n m (pmWrite a (cat v p) s))

/-- `SHDM` read, shift with data-memory read (R193). -/
def execShiftDmRead (f : ShiftFn) (x : Xop) (d : Dreg) (n m : Fin 8) (s : State) : Result :=
  let a := ea s n
  let s := shiftOp f x (seCode s) s
  let v := dmRead s a
  .next (wrDreg d v (modify n m (afterDmRead a s)))

/-- `SHDM` write, shift with data-memory write (R193). -/
def execShiftDmWrite (f : ShiftFn) (x : Xop) (d : Dreg) (n m : Fin 8) (s : State) : Result :=
  let a := ea s n
  let v := rdDreg s d
  let s := shiftOp f x (seCode s) s
  .next (modify n m (dmWrite a v s))

end Sys2Proof.Machine
end

