-- ==== Sys2Proof/Machine/Dispatch.lean ====
section
/-! DEFINITION. The dispatch: each instruction to its meaning (spec/30_encoding.md R86). -/

namespace Sys2Proof.Machine

def exec (i : Instr) (s : State) : Host.Outcome State Fault Refusal :=
  match i with
  | .nop => Sys2Proof.Machine.execNop s
  | .reserved01 => Sys2Proof.Machine.execReserved01 s
  | .reserved02 => Sys2Proof.Machine.execReserved02 s
  | .idle => Sys2Proof.Machine.execIdle s
  | .reserved03 => Sys2Proof.Machine.execReserved03 s
  | .stk popPc popLoop popCntr sts => Sys2Proof.Machine.execStk popPc popLoop popCntr sts s
  | .satMr => Sys2Proof.Machine.execSatMr s
  | .divs y x => Sys2Proof.Machine.execDivs y x s
  | .divq x => Sys2Proof.Machine.execDivq x s
  | .reserved08 => Sys2Proof.Machine.execReserved08 s
  | .modify n m => Sys2Proof.Machine.execModify n m s
  | .rts c => Sys2Proof.Machine.execRts c s
  | .rti c => Sys2Proof.Machine.execRti c s
  | .jumpInd n c => Sys2Proof.Machine.execJumpInd n c s
  | .callInd n c => Sys2Proof.Machine.execCallInd n c s
  | .mode arSat avLatch reverse bank => Sys2Proof.Machine.execMode arSat avLatch reverse bank s
  | .move dg di sg si => Sys2Proof.Machine.execMove dg di sg si s
  | .lshiftHi x c => Sys2Proof.Machine.execLshiftHi x c s
  | .lshiftHiOr x c => Sys2Proof.Machine.execLshiftHiOr x c s
  | .lshiftLo x c => Sys2Proof.Machine.execLshiftLo x c s
  | .lshiftLoOr x c => Sys2Proof.Machine.execLshiftLoOr x c s
  | .ashiftHi x c => Sys2Proof.Machine.execAshiftHi x c s
  | .ashiftHiOr x c => Sys2Proof.Machine.execAshiftHiOr x c s
  | .ashiftLo x c => Sys2Proof.Machine.execAshiftLo x c s
  | .ashiftLoOr x c => Sys2Proof.Machine.execAshiftLoOr x c s
  | .normHi x c => Sys2Proof.Machine.execNormHi x c s
  | .normHiOr x c => Sys2Proof.Machine.execNormHiOr x c s
  | .normLo x c => Sys2Proof.Machine.execNormLo x c s
  | .normLoOr x c => Sys2Proof.Machine.execNormLoOr x c s
  | .expHi x c => Sys2Proof.Machine.execExpHi x c s
  | .expHix x c => Sys2Proof.Machine.execExpHix x c s
  | .expLo x c => Sys2Proof.Machine.execExpLo x c s
  | .expAdj x c => Sys2Proof.Machine.execExpAdj x c s
  | .lshiftHiBy x e => Sys2Proof.Machine.execLshiftHiBy x e s
  | .lshiftHiOrBy x e => Sys2Proof.Machine.execLshiftHiOrBy x e s
  | .lshiftLoBy x e => Sys2Proof.Machine.execLshiftLoBy x e s
  | .lshiftLoOrBy x e => Sys2Proof.Machine.execLshiftLoOrBy x e s
  | .ashiftHiBy x e => Sys2Proof.Machine.execAshiftHiBy x e s
  | .ashiftHiOrBy x e => Sys2Proof.Machine.execAshiftHiOrBy x e s
  | .ashiftLoBy x e => Sys2Proof.Machine.execAshiftLoBy x e s
  | .ashiftLoOrBy x e => Sys2Proof.Machine.execAshiftLoOrBy x e s
  | .reservedShi _ _ _ => Sys2Proof.Machine.execReservedShi s
  | .shiftMove f x d sd => Sys2Proof.Machine.execShiftMove f x d sd s
  | .shiftPmRead f x d n m => Sys2Proof.Machine.execShiftPmRead f x d n m s
  | .shiftPmWrite f x d n m => Sys2Proof.Machine.execShiftPmWrite f x d n m s
  | .shiftDmRead f x d n m => Sys2Proof.Machine.execShiftDmRead f x d n m s
  | .shiftDmWrite f x d n m => Sys2Proof.Machine.execShiftDmWrite f x d n m s
  | .doUntil a t => Sys2Proof.Machine.execDoUntil a t s
  | .jump a c => Sys2Proof.Machine.execJump a c s
  | .call a c => Sys2Proof.Machine.execCall a c s
  | .ccNop z y x c => Sys2Proof.Machine.execCcNop z y x c s
  | .ccMulRnd z y x c => Sys2Proof.Machine.execCcMulRnd z y x c s
  | .ccAddRnd z y x c => Sys2Proof.Machine.execCcAddRnd z y x c s
  | .ccSubRnd z y x c => Sys2Proof.Machine.execCcSubRnd z y x c s
  | .ccMulSS z y x c => Sys2Proof.Machine.execCcMulSS z y x c s
  | .ccMulSU z y x c => Sys2Proof.Machine.execCcMulSU z y x c s
  | .ccMulUS z y x c => Sys2Proof.Machine.execCcMulUS z y x c s
  | .ccMulUU z y x c => Sys2Proof.Machine.execCcMulUU z y x c s
  | .ccAddSS z y x c => Sys2Proof.Machine.execCcAddSS z y x c s
  | .ccAddSU z y x c => Sys2Proof.Machine.execCcAddSU z y x c s
  | .ccAddUS z y x c => Sys2Proof.Machine.execCcAddUS z y x c s
  | .ccAddUU z y x c => Sys2Proof.Machine.execCcAddUU z y x c s
  | .ccSubSS z y x c => Sys2Proof.Machine.execCcSubSS z y x c s
  | .ccSubSU z y x c => Sys2Proof.Machine.execCcSubSU z y x c s
  | .ccSubUS z y x c => Sys2Proof.Machine.execCcSubUS z y x c s
  | .ccSubUU z y x c => Sys2Proof.Machine.execCcSubUU z y x c s
  | .ccPassY z y x c => Sys2Proof.Machine.execCcPassY z y x c s
  | .ccIncY z y x c => Sys2Proof.Machine.execCcIncY z y x c s
  | .ccAddC z y x c => Sys2Proof.Machine.execCcAddC z y x c s
  | .ccAdd z y x c => Sys2Proof.Machine.execCcAdd z y x c s
  | .ccNotY z y x c => Sys2Proof.Machine.execCcNotY z y x c s
  | .ccNegY z y x c => Sys2Proof.Machine.execCcNegY z y x c s
  | .ccSubC z y x c => Sys2Proof.Machine.execCcSubC z y x c s
  | .ccSub z y x c => Sys2Proof.Machine.execCcSub z y x c s
  | .ccDecY z y x c => Sys2Proof.Machine.execCcDecY z y x c s
  | .ccRsub z y x c => Sys2Proof.Machine.execCcRsub z y x c s
  | .ccRsubC z y x c => Sys2Proof.Machine.execCcRsubC z y x c s
  | .ccNotX z y x c => Sys2Proof.Machine.execCcNotX z y x c s
  | .ccAndXY z y x c => Sys2Proof.Machine.execCcAndXY z y x c s
  | .ccOrXY z y x c => Sys2Proof.Machine.execCcOrXY z y x c s
  | .ccXorXY z y x c => Sys2Proof.Machine.execCcXorXY z y x c s
  | .ccAbsX z y x c => Sys2Proof.Machine.execCcAbsX z y x c s
  | .computeMove f z y x d sd => Sys2Proof.Machine.execComputeMove f z y x d sd s
  | .loadImm14 g v r => Sys2Proof.Machine.execLoadImm14 g v r s
  | .loadImm16 v d => Sys2Proof.Machine.execLoadImm16 v d s
  | .computePmRead f z y x d n m => Sys2Proof.Machine.execComputePmRead f z y x d n m s
  | .computePmWrite f z y x d n m => Sys2Proof.Machine.execComputePmWrite f z y x d n m s
  | .computeDmRead f z y x d n m => Sys2Proof.Machine.execComputeDmRead f z y x d n m s
  | .computeDmWrite f z y x d n m => Sys2Proof.Machine.execComputeDmWrite f z y x d n m s
  | .loadDirect g a r => Sys2Proof.Machine.execLoadDirect g a r s
  | .storeDirect g a r => Sys2Proof.Machine.execStoreDirect g a r s
  | .storeImm v n m => Sys2Proof.Machine.execStoreImm v n m s
  | .computeDual f y x dx dn dm dy pn pm => Sys2Proof.Machine.execComputeDual f y x dx dn dm dy pn pm s

end Sys2Proof.Machine
end

