-- ==== Sys2Proof/Machine/Step.lean ====
section
/-! DEFINITION. One step of the core, one instruction boundary to the next (spec/30_encoding.md R71), and
the host's placing of an instruction where the next step fetches. -/

namespace Sys2Proof.Machine

/-- Steps 0 to 5 of R71: arbitrate; end if idle; record `PPC`; fetch; loop check; execute. The policy of
the hardware stacks answers for the whole (log 5). An entry in step 0 is followed by the instruction at
the vector in the same step, also with `NEST` = 0 and a lower line still active, where spec/60_exceptions.md
R313 has the lower line taken before that instruction; DEDUCED from R71, log 26. -/
def step (s : State) : Host.Outcome State Fault Refusal :=
  let a := arbitrate s
  underStackPolicy Config.stackPolicy s <|
    if a.idle then .next a
    else exec (decodeWord (fetch a)) (loopCheck (afterFetch (a.setPpc a.pc)))

/-- `s` with the instruction of the low `nbits` bits of `w` stored where the next step fetches: at the
`PC` the arbitration pass leaves, with no device mapped there, and with `IDLE` cleared where the core
would fetch nothing (log 18). -/
def State.withFetchWord (s : State) (nbits w : Nat) : State :=
  let a := arbitrate s
  { s with
    pm := s.pm.putPm a.pc (BitVec.ofNat 24 (w % 2 ^ nbits))
    pmDevices := s.pmDevices.filter (· != a.pc)
    idle := s.idle && !a.idle }

end Sys2Proof.Machine
end

