-- ==== Sys2Proof/Machine/HostPort.lean ====
section
/-! DEFINITION. What the host does to the core between steps (spec/20_memory.md R63,
spec/70_reset_and_hazards.md R358): the interrupt lines, reset, context save and restore, register
snoop. None of it is part of `step` (log 7). -/

namespace Sys2Proof.Machine

/-- `set_irq_line(n, state)` (spec/60_exceptions.md R303). -/
def setIrqLine (n : Fin 4) (asserted : Bool) (s : State) : State :=
  let edge := asserted && !s.irqLevel.getLsbD n.val && s.icntl.getLsbD n.val
  let s := if edge then s.setIrqLatch (putBit s.irqLatch n.val true) else s
  let s := s.setIrqLevel (putBit s.irqLevel n.val asserted)
  if asserted then arbitrate s else s

/-- Reset: every piece of the core's state at its reset value, memory untouched (R340). -/
def hostReset (s : State) : State := { s with toContext := Context.reset }

/-- `get_context()` (R350). -/
def getContext (s : State) : Context := s.toContext

/-- `set_context(c)`: replace the whole context, then one arbitration pass (R350). -/
def setContext (c : Context) (s : State) : State := arbitrate { s with toContext := c }

/-- "Stack contents at depth `k`": `cell[(SP - 1 - k) mod DEPTH]` (spec/10_state.md R37). -/
def HwStack.atDepth {α : Type} {k : Nat} (st : HwStack α k) (depth : Nat) : α :=
  st.cells[(st.sp - 1 - BitVec.ofNat k depth).toNat]'(st.sp - 1 - BitVec.ofNat k depth).isLt

/-- A stack with its content at a depth made `v`. -/
def HwStack.putDepth {α : Type} {k : Nat} (st : HwStack α k) (depth : Nat) (v : α) : HwStack α k :=
  let i := st.sp - 1 - BitVec.ofNat k depth
  { st with cells := st.cells.set i.toNat v i.isLt }

/-- A status entry as one value, `{ASTAT, MSTAT, IMASK}` (spec/10_state.md R30). -/
def stsValue (c : StsCell) : BitVec 16 := cat c.astat (cat c.mstat c.imask)

/-- A status entry read from one value. -/
def stsOfValue (v : BitVec 32) : StsCell :=
  { astat := v.extractLsb' 8 8, mstat := v.extractLsb' 4 4, imask := v.extractLsb' 0 4 }

/-- One bit as a snoop value. -/
def bitValue (b : Bool) : BitVec 32 := (BitVec.ofBool b).setWidth 32

/-- `get_register(id)` (R352): bank registers are those of the active bank; an id out of range reads 0.
`genPC` and `genSP` alias `PC` and the PC stack pointer (spec/91_not_in_source.md N13; log 12). -/
def getRegister (id : SnoopId) (s : State) : BitVec 32 :=
  match id with
  | .pc => s.pc.setWidth 32
  | .ppc => s.ppc.setWidth 32
  | .ax0 => s.bank.ax0.setWidth 32
  | .ax1 => s.bank.ax1.setWidth 32
  | .ay0 => s.bank.ay0.setWidth 32
  | .ay1 => s.bank.ay1.setWidth 32
  | .ar => s.bank.ar.setWidth 32
  | .af => s.bank.af.setWidth 32
  | .mx0 => s.bank.mx0.setWidth 32
  | .mx1 => s.bank.mx1.setWidth 32
  | .my0 => s.bank.my0.setWidth 32
  | .my1 => s.bank.my1.setWidth 32
  | .mr0 => s.bank.mr0.setWidth 32
  | .mr1 => s.bank.mr1.setWidth 32
  | .mr2 => s.bank.mr2.setWidth 32
  | .mf => s.bank.mf.setWidth 32
  | .si => s.bank.si.setWidth 32
  | .se => s.bank.se.setWidth 32
  | .sb => s.bank.sb.setWidth 32
  | .sr0 => s.bank.sr0.setWidth 32
  | .sr1 => s.bank.sr1.setWidth 32
  | .i n => (s.gen n).i.setWidth 32
  | .m n => (s.gen n).m.setWidth 32
  | .l n => (s.gen n).l.setWidth 32
  | .mask n => (s.gen n).mask.setWidth 32
  | .base n => (s.gen n).base.setWidth 32
  | .px => s.px.setWidth 32
  | .cntr => s.cntr.setWidth 32
  | .astat => s.astat.setWidth 32
  | .sstat => s.sstat.setWidth 32
  | .mstat => s.mstat.setWidth 32
  | .imask => s.imask.setWidth 32
  | .icntl => s.icntl.setWidth 32
  | .pcSp => s.pcStk.sp.setWidth 32
  | .loopSp => s.loopStk.sp.setWidth 32
  | .cntrSp => s.cntrStk.sp.setWidth 32
  | .stsSp => s.stsStk.sp.setWidth 32
  | .irqState n => bitValue (s.irqLevel.getLsbD n.val)
  | .irqLatch n => bitValue (s.irqLatch.getLsbD n.val)
  | .flagIn => bitValue s.flagIn
  | .flagOut => bitValue s.flagOut
  | .idle => bitValue s.idle
  | .loopEnd => (s.loopEnd.map (BitVec.setWidth 32)).getD Config.snoopOfNone
  | .loopTerm => s.loopTerm.setWidth 32
  | .pcStackAt k => (s.pcStk.atDepth k.val).setWidth 32
  | .loopStackAt k => s.loopStk.atDepth k.val
  | .cntrStackAt k => (s.cntrStk.atDepth k.val).setWidth 32
  | .stsStackAt k => (stsValue (s.stsStk.atDepth k.val)).setWidth 32
  | .genPc => s.pc.setWidth 32
  | .genSp => s.pcStk.sp.setWidth 32
  | .outOfRange => 0

/-- A write of the PC stack pointer, with the empty bit that follows it (R23; log 13). -/
def writePcSp (sp : BitVec 4) (s : State) : State :=
  s.setPcStk { s.pcStk with sp := sp } (putBit s.sstat pcEmptyBit (sp == 0))

/-- `set_register(id, value)` (R352): the side effects of `WrReg` for a register with a group slot, but a
write of `CNTR` does not push; `PC` redirects the next fetch; an IRQ-state id is `set_irq_line`; an id
out of range does nothing. What R352 leaves unsaid is log 13 and log 14. -/
def setRegister (id : SnoopId) (v : BitVec 32) (s : State) : State :=
  let w : Word := v.setWidth 16
  match id with
  | .pc => s.setPc (v.setWidth 14)
  | .ppc => s.setPpc (v.setWidth 14)
  | .ax0 => wrDreg .ax0 w s
  | .ax1 => wrDreg .ax1 w s
  | .ay0 => wrDreg .ay0 w s
  | .ay1 => wrDreg .ay1 w s
  | .ar => wrDreg .ar w s
  | .af => s.setBank { s.bank with af := w }
  | .mx0 => wrDreg .mx0 w s
  | .mx1 => wrDreg .mx1 w s
  | .my0 => wrDreg .my0 w s
  | .my1 => wrDreg .my1 w s
  | .mr0 => wrDreg .mr0 w s
  | .mr1 => wrDreg .mr1 w s
  | .mr2 => wrDreg .mr2 w s
  | .mf => s.setBank { s.bank with mf := w }
  | .si => wrDreg .si w s
  | .se => wrDreg .se w s
  | .sb => s.setBank { s.bank with sb := extSb w }
  | .sr0 => wrDreg .sr0 w s
  | .sr1 => wrDreg .sr1 w s
  | .i n => writeI n w s
  | .m n => writeM n w s
  | .l n => writeL n w s
  | .mask _ => s
  | .base _ => s
  | .px => s.setPx (w.setWidth 8)
  | .cntr => s.setCntr w
  | .astat => s.setAstat (w.setWidth 8)
  | .sstat => s
  | .mstat => s.setMstat (w.setWidth 4)
  | .imask => s.setImask (w.setWidth 4)
  | .icntl => s.setIcntl (w.setWidth 5)
  | .pcSp => writePcSp (v.setWidth 4) s
  | .loopSp =>
    s.setLoopStk { s.loopStk with sp := v.setWidth 2 }
      (putBit s.sstat loopEmptyBit (v.setWidth 2 == (0 : BitVec 2)))
  | .cntrSp =>
    s.setCntrStk { s.cntrStk with sp := v.setWidth 2 }
      (putBit s.sstat cntrEmptyBit (v.setWidth 2 == (0 : BitVec 2)))
  | .stsSp =>
    s.setStsStk { s.stsStk with sp := v.setWidth 2 }
      (putBit s.sstat stsEmptyBit (v.setWidth 2 == (0 : BitVec 2)))
  | .irqState n => setIrqLine n (v.getLsbD 0) s
  | .irqLatch n => s.setIrqLatch (putBit s.irqLatch n.val (v.getLsbD 0))
  | .flagIn => { s with flagIn := v.getLsbD 0 }
  | .flagOut => { s with flagOut := v.getLsbD 0 }
  | .idle => s.setIdle (v.getLsbD 0)
  | .loopEnd => s.setLoop (some (v.setWidth 14)) s.loopTerm
  | .loopTerm => s.setLoop s.loopEnd (v.setWidth 4)
  | .pcStackAt k => s.setPcStk (s.pcStk.putDepth k.val (v.setWidth 14)) s.sstat
  | .loopStackAt k =>
    s.setLoopStk (s.loopStk.putDepth k.val (loopCell (v.extractLsb' 4 14) (v.extractLsb' 0 4))) s.sstat
  | .cntrStackAt k => s.setCntrStk (s.cntrStk.putDepth k.val w) s.sstat
  | .stsStackAt k => s.setStsStk (s.stsStk.putDepth k.val (stsOfValue v)) s.sstat
  | .genPc => s.setPc (v.setWidth 14)
  | .genSp => writePcSp (v.setWidth 4) s
  | .outOfRange => s

/-- `get_register` by the integer id of the interface (`SNOOP_ID`, log 12). -/
def getRegisterById (id : Int) (s : State) : BitVec 32 := getRegister (Config.snoopId id) s

/-- `set_register` by the integer id of the interface (`SNOOP_ID`, log 12). -/
def setRegisterById (id : Int) (v : BitVec 32) (s : State) : State := setRegister (Config.snoopId id) v s

/-- What the host may do at an instruction boundary (R63, R68, R340, R350, R352). -/
inductive HostAction where
  | setIrqLine (n : Fin 4) (asserted : Bool)
  | reset
  | setContext (c : Context)
  | setRegister (id : SnoopId) (v : BitVec 32)
  | writePm (a : Addr) (w : OpWord)
  | writeDm (a : Addr) (v : Word)
  | mapDevices (pm dm : List Addr)
deriving DecidableEq, Repr

/-- The state after one host action, the stacks wrapping. The host reaches its own memory without the
port. -/
def hostEffect (h : HostAction) (s : State) : State :=
  match h with
  | .setIrqLine n b => Sys2Proof.Machine.setIrqLine n b s
  | .reset => hostReset s
  | .setContext c => Sys2Proof.Machine.setContext c s
  | .setRegister id v => Sys2Proof.Machine.setRegister id v s
  | .writePm a w => s.setPm (s.pm.putPm a w)
  | .writeDm a v => s.setDm (s.dm.putDm a v)
  | .mapDevices pm dm => s.setDevices pm dm

/-- The state whose wrapped bits a host action starts from: those of the context it brings, if any. -/
def hostBefore (h : HostAction) (s : State) : State :=
  match h with
  | .setContext c => { s with toContext := c }
  | _ => s

/-- One host action: an arbitration pass it runs may push, so the policy of the stacks answers for it
(log 5). -/
def hostStep (h : HostAction) (s : State) : Result :=
  underStackPolicy Config.stackPolicy (hostBefore h s) (.next (hostEffect h s))

end Sys2Proof.Machine
end

