-- ==== Sys2Proof/Safety.lean ====
section
/-! DEFINITION. What the statements call a sound state: the invariants spec/10_state.md gives the state
(spec/70_reset_and_hazards.md R351 lists them) and the canonical form of the two memories. -/

namespace Sys2Proof.Machine

/-- `SE` and `SB` hold sign-extended values (R14). -/
abbrev Bank.Sound (b : Bank) : Prop := b.se = extSe b.se ∧ b.sb = extSb b.sb

/-- `M` holds a sign-extended value, `MASK = MaskTable(L)` (R16), and `BASE` has no bit inside the mask
(spec/44_dag_moves.md R206, R207). -/
abbrev Gen.Sound (g : Gen) : Prop := g.m = extM g.m ∧ g.mask = maskTable g.l ∧ g.base &&& g.mask = 0

/-- Each empty bit of `SSTAT` is 1 exactly when that stack's pointer is 0 (R23). -/
abbrev State.EmptyBitsSound (s : State) : Prop :=
  s.sstat.getLsbD pcEmptyBit = (s.pcStk.sp == 0) ∧ s.sstat.getLsbD cntrEmptyBit = (s.cntrStk.sp == 0) ∧
  s.sstat.getLsbD stsEmptyBit = (s.stsStk.sp == 0) ∧ s.sstat.getLsbD loopEmptyBit = (s.loopStk.sp == 0)

/-- `LOOP_END`, `LOOP_TERM` are `NONE`, 0 with the loop stack pointer at 0, or the top entry (R19, R32;
log 11). -/
abbrev State.LoopSound (s : State) : Prop :=
  (s.loopEnd = none ∧ s.loopTerm = 0 ∧ s.loopStk.sp = 0) ∨
  (s.loopEnd = some (cellEnd s.loopStk.top) ∧ s.loopTerm = cellTerm s.loopStk.top)

/-- The upper 14 bits of every loop cell are 0 (R30). -/
abbrev State.LoopCellsSound (s : State) : Prop :=
  ∀ k : Fin 4, (s.loopStk.cells[k]).extractLsb' 18 14 = 0

/-- Both memories are in canonical form and list only bytes that exist (spec/20_memory.md R51, R52). -/
abbrev State.MemorySound (s : State) : Prop :=
  s.pm.wf = true ∧ s.dm.wf = true ∧ pmInSpace s.pm = true ∧ dmInSpace s.dm = true

/-- The invariants of a state, all of them. -/
abbrev State.Sound (s : State) : Prop :=
  s.bank0.Sound ∧ s.bank1.Sound ∧ (∀ n : Fin 8, (s.gen n).Sound) ∧ s.EmptyBitsSound ∧ s.LoopSound ∧
  s.LoopCellsSound ∧ s.MemorySound

/-- No line is active and enabled: the arbitration pass of the next step takes nothing
(spec/60_exceptions.md R304, R306). -/
abbrev State.Quiet (s : State) : Prop := ∀ n : Fin 4, lineActive s n = true → s.imask.getLsbD n.val = false

end Sys2Proof.Machine
end

