-- ==== Sys2Proof/Certificates/Slice0/Obligations.lean ====
section
/-! DEFINITION. The statements for the provers, and before them the terms they are written in: what the
rules of spec/ say, from exact integers and single bits. -/

namespace Sys2Proof.Claims

open Sys2Proof.Machine

/-! ## Conditions -/

/-- `if Cond(c): k` (R104, R106): code 14 counts `CNTR` down and reloads it on expiry, every other code
reads the flags byte. -/
def gated (c : Cond) (k : State → State) (s : State) : State :=
  if c = .notCe then
    let u := s.setCntr (s.cntr - 1)
    if 1 < s.cntr.toNat then k u else popCntr u
  else if condTable c s.astat then k s
  else s

/-! ## Flags and results, from exact integers -/

/-- The flags byte of its eight flags (R21). -/
def flagsByte (az an av ac asn aq mv ss : Bool) : BitVec 8 :=
  BitVec.ofBoolListLE [az, an, av, ac, asn, aq, mv, ss]

/-- A flags byte with flag `k` made `b`. -/
def setFlag (f : BitVec 8) (k : Nat) (b : Bool) : BitVec 8 :=
  BitVec.ofFnLE fun j => if j.val = k then b else f.getLsbD j.val

/-- What an ALU function with the 16-bit result `r` leaves (R110, R113 to R115): `r`, or the saturated
value, in `AR` or `AF`, and the flags byte; `AQ`, `MV`, `SS` stay. -/
def aluResult (z : Bool) (r : Word) (ovf carry asn : Bool) (s : State) : State :=
  let w : Word := if s.mstat.getLsbD 3 && ovf && !z then (if carry then 0x8000 else 0x7FFF) else r
  let f := s.astat
  (s.setBank (if z then { s.bank with af := w } else { s.bank with ar := w })).setAstat
    (flagsByte (r == 0) r.msb ((s.mstat.getLsbD 2 && f.getLsbD 2) || ovf) carry asn
      (f.getLsbD 5) (f.getLsbD 6) (f.getLsbD 7))

/-- An arithmetic function with the exact signed result `v` (R112): `AV` when `v` is no 16-bit signed
number. -/
def arithmetic (z : Bool) (v : Int) (carry : Bool) (s : State) : State :=
  aluResult z (BitVec.ofInt 16 v) (decide (v < -32768 ∨ 32767 < v)) carry (s.astat.getLsbD 4) s

/-- A logic function with the result `r` (R113). -/
def logical (z : Bool) (r : Word) (s : State) : State := aluResult z r false false (s.astat.getLsbD 4) s

/-- What a MAC function with the 40-bit result `r` leaves (R140, R144). -/
def macResult (z : Bool) (r : BitVec 40) (s : State) : State :=
  (s.setBank (if z then { s.bank with mf := r.extractLsb' 16 16 } else { s.bank with mr := r })).setAstat
    (setFlag s.astat 6 (decide (r.toInt < -2147483648 ∨ 2147483647 < r.toInt)))

/-- The sum `v` rounded at bit 16 to the nearest, a tie to the even value (R143); bits 15 to 0 are those
of `v + 0x8000`. -/
def roundedHalfEven (v : Int) : BitVec 40 :=
  let q := v / 65536
  let frac := v % 65536
  let up := 32768 < frac ∨ (frac = 32768 ∧ q % 2 = 1)
  cat (BitVec.ofInt 24 (if up then q + 1 else q)) (BitVec.ofInt 16 (frac + 32768))

/-! ## Shifts, bit by bit -/

/-- The 32-bit field with bit 0 of `x` at position `pos`, zeros below it and `fill` above bit 15 of `x`;
what falls outside the field is lost (R171). -/
def placed (x : Word) (fill : Bool) (pos : Int) : BitVec 32 :=
  BitVec.ofFnLE fun j =>
    let p := (j.val : Int) - pos
    if p < 0 then false else if p < 16 then x.getLsbD p.toNat else fill

/-- `SR` written with `r`, or with `SR or r` for an `OR` variant (R170). -/
def withSr (accumulate : Bool) (r : BitVec 32) (s : State) : State :=
  s.setBank { s.bank with sr := if accumulate then s.bank.sr ||| r else r }

/-- How many of the bits of `x` from bit `top` downward equal `b`, up to the first that differs. -/
def runDown (x : Word) (b : Bool) (top : Nat) : Nat :=
  ((List.range (top + 1)).takeWhile fun k => x.getLsbD (top - k) == b).length

/-- `red(x)` (R184). -/
def redundant (x : Word) : Nat := runDown x x.msb 14

/-! ## Register tables, by number -/

/-- `RdReg(g, r)` read off the tables of R211, R213, R214, R216. -/
def tableRead (s : State) (g : RegGroup) (r : BitVec 4) : Word :=
  let b := s.bank
  let i := fun k => (s.gen (Fin.ofNat 8 k)).i.toNat
  let m := fun k => (s.gen (Fin.ofNat 8 k)).m
  let l := fun k => (s.gen (Fin.ofNat 8 k)).l.toNat
  let k := r.toNat
  match g with
  | .data =>
    [b.ax0, b.ax1, b.mx0, b.mx1, b.ay0, b.ay1, b.my0, b.my1, b.si, b.se, b.ar,
      b.mr.extractLsb' 0 16, b.mr.extractLsb' 16 16, BitVec.ofInt 16 (b.mr.extractLsb' 32 8).toInt,
      b.sr.extractLsb' 0 16, b.sr.extractLsb' 16 16].getD k 0
  | .dag1 =>
    if k < 4 then BitVec.ofNat 16 (i k)
    else if k < 8 then m (k - 4)
    else if k < 12 then BitVec.ofNat 16 (l (k - 8))
    else 0
  | .dag2 =>
    if k < 4 then BitVec.ofNat 16 (i (4 + k))
    else if k < 8 then m k
    else if k < 12 then BitVec.ofNat 16 (l (k - 4))
    else 0
  | .ctl =>
    [BitVec.ofNat 16 s.astat.toNat, BitVec.ofNat 16 s.mstat.toNat, BitVec.ofNat 16 s.sstat.toNat,
      BitVec.ofNat 16 s.imask.toNat, BitVec.ofNat 16 s.icntl.toNat, s.cntr, b.sb,
      BitVec.ofNat 16 s.px.toNat].getD k 0

/-- A write of `I[n]`, `M[n]` or `L[n]` (R206, R207). -/
def tableWriteI (n : Nat) (v : Word) (s : State) : State :=
  let n := Fin.ofNat 8 n
  let g := s.gen n
  s.setGen n { g with i := v.extractLsb' 0 14, base := v.extractLsb' 0 14 &&& ~~~g.mask }

def tableWriteM (n : Nat) (v : Word) (s : State) : State :=
  let n := Fin.ofNat 8 n
  s.setGen n { s.gen n with m := BitVec.ofInt 16 (v.extractLsb' 0 14).toInt }

def tableWriteL (n : Nat) (v : Word) (s : State) : State :=
  let n := Fin.ofNat 8 n
  let g := s.gen n
  let mask := maskTable (v.extractLsb' 0 14)
  s.setGen n { g with l := v.extractLsb' 0 14, mask := mask, base := g.i &&& ~~~mask }

/-- `WrReg(g, r, v)` read off the tables of R211, R213, R214, R216. -/
def tableWrite (g : RegGroup) (r : BitVec 4) (v : Word) (s : State) : State :=
  let b := s.bank
  let k := r.toNat
  match g with
  | .data =>
    s.setBank <|
      match k with
      | 0 => { b with ax0 := v }
      | 1 => { b with ax1 := v }
      | 2 => { b with mx0 := v }
      | 3 => { b with mx1 := v }
      | 4 => { b with ay0 := v }
      | 5 => { b with ay1 := v }
      | 6 => { b with my0 := v }
      | 7 => { b with my1 := v }
      | 8 => { b with si := v }
      | 9 => { b with se := BitVec.ofInt 16 (v.extractLsb' 0 8).toInt }
      | 10 => { b with ar := v }
      | 11 => { b with mr := cat (b.mr.extractLsb' 16 24) v }
      | 12 => { b with mr := cat (if v.getLsbD 15 then 0xFF#8 else 0x00#8) (cat v (b.mr.extractLsb' 0 16)) }
      | 13 => { b with mr := cat (v.extractLsb' 0 8) (b.mr.extractLsb' 0 32) }
      | 14 => { b with sr := cat (b.sr.extractLsb' 16 16) v }
      | _ => { b with sr := cat v (b.sr.extractLsb' 0 16) }
  | .dag1 =>
    if k < 4 then tableWriteI k v s
    else if k < 8 then tableWriteM (k - 4) v s
    else if k < 12 then tableWriteL (k - 8) v s
    else s
  | .dag2 =>
    if k < 4 then tableWriteI (4 + k) v s
    else if k < 8 then tableWriteM k v s
    else if k < 12 then tableWriteL (k - 4) v s
    else s
  | .ctl =>
    match k with
    | 0 => s.setAstat (v.extractLsb' 0 8)
    | 1 => s.setMstat (v.extractLsb' 0 4)
    | 2 => s
    | 3 => s.setImask (v.extractLsb' 0 4)
    | 4 => s.setIcntl (v.extractLsb' 0 5)
    | 5 => (pushCntr s).setCntr v
    | 6 => s.setBank { b with sb := BitVec.ofInt 16 (v.extractLsb' 0 5).toInt }
    | 7 => s.setPx (v.extractLsb' 0 8)
    | _ => s

/-! ## Address generators -/

/-- Generator `n` after `Modify(n, m)` (R205), in integers. -/
def stepped (s : State) (n m : Fin 8) : Gen :=
  let g := s.gen n
  let t := (g.i.toNat : Int) + ((s.gen m).m.extractLsb' 0 14).toInt
  let lo : Int := g.base.toNat
  let len : Int := g.l.toNat
  let t := if t < lo then t + len else if lo + len ≤ t then t - len else t
  { g with i := BitVec.ofInt 14 (t % 16384) }

/-! ## Stacks -/

/-- `st'` is `st` after a push of `v` (R30). -/
def Pushed {α : Type} {k : Nat} (st st' : HwStack α k) (v : α) : Prop :=
  st'.sp.toNat = (st.sp.toNat + 1) % 2 ^ k ∧
  ∀ i : Fin (2 ^ k), st'.cells[i] = if i.val = st.sp.toNat then v else st.cells[i]

/-- `st'` is `st` after a pop that returned `v` (R30): every cell keeps its value. -/
def Popped {α : Type} {k : Nat} (st st' : HwStack α k) (v : α) : Prop :=
  st.sp.toNat = (st'.sp.toNat + 1) % 2 ^ k ∧ st'.cells = st.cells ∧
  ∀ i : Fin (2 ^ k), i.val = st'.sp.toNat → v = st.cells[i]

/-- The bits `e` (empty) and `e + 1` (wrapped) of `SSTAT` follow a push or pop that left the pointer `sp`
and wrapped or not; the other bits stay (R23, R35, R36). -/
def StatusFollows (e : Nat) (sp : Nat) (wraps : Bool) (old new : BitVec 8) : Prop :=
  ∀ j < 8, new.getLsbD j =
    if j = e then decide (sp = 0) else if j = e + 1 then old.getLsbD j || wraps else old.getLsbD j

/-! ## Interrupts, state no instruction reaches -/

/-- Line `n` requests and is enabled (R304). -/
def Requests (s : State) (n : Fin 4) : Prop :=
  (if s.icntl.getLsbD n.val then s.irqLatch.getLsbD n.val else s.irqLevel.getLsbD n.val) = true ∧
  s.imask.getLsbD n.val = true

/-- The bank `MSTAT[0]` does not select, made `b`. -/
def putInactiveBank (upper : Bool) (b : Bank) (s : State) : State :=
  if upper then { s with bank0 := b } else { s with bank1 := b }

/-- The line levels and latches, the pins, the cycle counter and `PPC`, replaced. -/
def putOutside (level latch : BitVec 4) (pinIn pinOut : Bool) (extra : Nat) (p : Addr) (s : State) : State :=
  { s with irqLevel := level, irqLatch := latch, flagIn := pinIn, flagOut := pinOut,
           irqExtraCycles := extra, ppc := p }

/-- The instructions that write program memory (R55). -/
def writesPm : Instr → Bool
  | .shiftPmWrite _ _ _ _ _ => true
  | .computePmWrite _ _ _ _ _ _ _ => true
  | _ => false

/-- The instructions that write data memory (R55). -/
def writesDm : Instr → Bool
  | .shiftDmWrite _ _ _ _ _ => true
  | .computeDmWrite _ _ _ _ _ _ _ => true
  | .storeDirect _ _ _ => true
  | .storeImm _ _ _ => true
  | _ => false

/-! ## The port, devices (R58, R68; log 3) -/

/-- The state after a read of program memory at `a`: a device there has seen the read. -/
def portPm (a : Addr) (s : State) : State :=
  if a ∈ s.pmDevices then { s with events := .pmRead a :: s.events } else s

/-- The state after a read of data memory at `a`: a device there has seen the read. -/
def portDm (a : Addr) (s : State) : State :=
  if a ∈ s.dmDevices then { s with events := .dmRead a :: s.events } else s

/-- `t` is `s` after `v` went to the data-memory address `a`: to the device there, memory staying as it
was, or to the word there, every other byte of data memory and the host's events staying. -/
def StoresDm (s t : State) (a : Addr) (v : Word) : Prop :=
  if a ∈ s.dmDevices then t.dm = s.dm ∧ t.events = .dmWrite a v :: s.events
  else t.events = s.events ∧ dmRead t a = v ∧
    ∀ k, k ≠ dmByte a → k ≠ dmByte a + 1 → t.dm.read k = s.dm.read k

/-- `t` is `s` after `w` went to the program-memory address `a`: to the device there, memory staying as
it was, or to the word there, every other byte of program memory and the host's events staying. -/
def StoresPm (s t : State) (a : Addr) (w : OpWord) : Prop :=
  if a ∈ s.pmDevices then t.pm = s.pm ∧ t.events = .pmWrite a w :: s.events
  else t.events = s.events ∧ pmRead t a = w ∧
    ∀ k, k ≠ pmByte a → k ≠ pmByte a + 1 → k ≠ pmByte a + 2 → t.pm.read k = s.pm.read k

/-- The instructions that read program memory as data (R55). -/
def readsPm : Instr → Bool
  | .shiftPmRead _ _ _ _ _ => true
  | .computePmRead _ _ _ _ _ _ _ => true
  | .computeDual _ _ _ _ _ _ _ _ _ => true
  | _ => false

/-- The instructions that read data memory (R55). -/
def readsDm : Instr → Bool
  | .shiftDmRead _ _ _ _ _ => true
  | .computeDmRead _ _ _ _ _ _ _ => true
  | .loadDirect _ _ _ => true
  | .computeDual _ _ _ _ _ _ _ _ _ => true
  | _ => false

/-! ## Instruction words -/

/-- The bits of a word that are not marked `x` in the formats of R74, by primary opcode. -/
def namedBits (w : OpWord) : OpWord :=
  let p := (w.extractLsb' 16 8).toNat
  if p = 0x02 then 0xFF8000
  else if p ≤ 0x03 ∨ p = 0x05 ∨ p = 0x08 then 0xFF0000
  else if p = 0x04 ∨ p = 0x09 ∨ p = 0x0A then 0xFF001F
  else if p = 0x06 then 0xFF1F00
  else if p = 0x07 then 0xFF0700
  else if p = 0x0B then 0xFF00DF
  else if p = 0x0C then 0xFF0FF0
  else if p = 0x0D then 0xFF0FFF
  else if p = 0x0E then 0xFF7F0F
  else if p = 0x0F ∨ p = 0x10 then 0xFF7FFF
  else if 0x20 ≤ p ∧ p ≤ 0x27 then 0xFFFF0F
  else 0xFFFFFF

/-- The words R87 reserves. -/
def reservedWord (w : OpWord) : Prop :=
  let p := (w.extractLsb' 16 8).toNat
  p = 0x01 ∨ p = 0x03 ∨ p = 0x08 ∨ (p = 0x02 ∧ w.getLsbD 15 = false) ∨ (p = 0x0F ∧ w.getLsbD 14 = true)

end Sys2Proof.Claims

open Sys2Proof Sys2Proof.Machine Sys2Proof.Claims

/-- For every well-formed instruction, the decoder reads its encoded word back as that instruction, from the
word and from the word's bytes with nothing left over (R74, R86). The byte layout is the model's (log
2). -/
def Obligations.DecodeEncode : Prop :=
  ∀ i : Instr, i.WellFormed →
    decodeWord (encode i) = i ∧ decodeBytes (wordBytes (encode i)) = .ok (i, [])

/-- Encoding the instruction decoded from any word gives the word with its ignored bits cleared; a word that
agrees on the named bits decodes to the same instruction (R85, with the x bits of R74). -/
def Obligations.IgnoredBitsDropped : Prop :=
  ∀ w : OpWord, encode (decodeWord w) = w &&& namedBits w ∧
    ∀ v : OpWord, v &&& namedBits w = w &&& namedBits w → decodeWord v = decodeWord w

/-- Every word matches the mask and match of the opcode-table row of the instruction it decodes to; any
instruction whose row the word matches is of that same row; the decoded instruction is well-formed
(R78); a word that differs in ignored bits only decodes to the same instruction, and the encoder writes
those bits as 0 (R85). -/
def Obligations.DecodingFollowsTable : Prop :=
  ∀ w : OpWord, w &&& tableMask (decodeWord w) = tableMatch (decodeWord w) ∧
    (∀ i : Instr, w &&& tableMask i = tableMatch i →
      tableMask i = tableMask (decodeWord w) ∧ tableMatch i = tableMatch (decodeWord w)) ∧
    (decodeWord w).WellFormed ∧ encode (decodeWord w) &&& ~~~namedBits w = 0 ∧
    ∀ v : OpWord, v &&& namedBits w = w &&& namedBits w → decodeWord v = decodeWord w

/-- Ten words the spec writes out in its examples decode to the instruction the example names (R188, R189,
R193, R220, R223, R226, R227, R246, R247, R288). -/
def Obligations.SampleWords : Prop :=
  decodeWord 0x0E3A01 = .ashiftLoOr .ar .ne ∧ decodeWord 0x0F00FB = .lshiftHiBy .x0 (-5) ∧
    decodeWord 0x1298F6 = .shiftDmWrite .lshiftLoOr .x0 .sr1 1 2 ∧
    decodeWord 0x0D0C54 = .move .ctl 5 .data 4 ∧ decodeWord 0x3BFFF5 = .loadImm14 .dag2 0x3FFF 5 ∧
    decodeWord 0x9C0102 = .storeDirect .ctl 0x0010 2 ∧ decodeWord 0xABEEF6 = .storeImm 0xBEEF 1 2 ∧
    decodeWord 0x1C0408 = .call 0x0040 .ac ∧ decodeWord 0x0B009F = .callInd 6 .always ∧
    decodeWord 0xD6E969 = .computeDual (.alu .sub) .y1 .x1 .ax1 2 1 .ay1 5 6

/-- After the arbitration pass, with the core not idle: when the three bytes of the word at PC decode to a
well-formed instruction i and no device is mapped there, the step is exec of i at the state with PPC
recorded and the loop check done (R71 steps 0 to 5). With a device mapped there it is exec of what the
device's answer, a free value, decodes to, and the host has seen the read (R68; log 3). With the core
idle after the pass, the step ends there. STACK_POLICY is at its default (log 5). -/
def Obligations.StepRunsDecoded : Prop :=
  ∀ (s : State) (i : Instr), let a := arbitrate s;
    (a.idle = false → a.pc ∉ a.pmDevices →
      decodeBytes [a.pm.read (pmByte a.pc), a.pm.read (pmByte a.pc + 1), a.pm.read (pmByte a.pc + 2)]
        = .ok (i, []) →
      i.WellFormed → step s = exec i (loopCheck (a.setPpc a.pc))) ∧
    (a.idle = false → a.pc ∈ a.pmDevices →
      step s = exec (decodeWord (Config.deviceAnswer a.events.length)) (loopCheck (portPm a.pc (a.setPpc a.pc)))) ∧
    (a.idle = true → step s = .next a)

/-- In every state every instruction answers a next state, and so does every step: nothing faults and
nothing is refused (R300; R357: Step is total). STACK_POLICY is at its default wrap (log 5). -/
def Obligations.NothingStops : Prop :=
  (∀ (i : Instr) (s : State), ∃ t, exec i s = .next t) ∧ ∀ s : State, ∃ t, step s = .next t

/-- Step 4 of R71. PC is not LOOP_END: PC + 1. PC is LOOP_END and the termination code is not 14: with the
coded condition true PC is the top of the PC stack and nothing is popped, else both stacks are popped
and PC + 1. Code 14: with CNTR above 1 the same after CNTR - 1, else CNTR is popped from its stack and
the loop is left. -/
def Obligations.LoopCheckChoosesPc : Prop :=
  ∀ s : State,
    (s.loopEnd ≠ some s.pc → loopCheck s = s.setPc (s.pc + 1)) ∧
    (s.loopEnd = some s.pc → s.loopTerm ≠ 14 → condTable (Cond.ofCode s.loopTerm) s.astat = true →
      loopCheck s = s.setPc s.pcStk.top) ∧
    (s.loopEnd = some s.pc → s.loopTerm ≠ 14 → condTable (Cond.ofCode s.loopTerm) s.astat = false →
      loopCheck s = (popPc (popLoop s)).setPc (s.pc + 1)) ∧
    (s.loopEnd = some s.pc → s.loopTerm = 14 → 1 < s.cntr.toNat →
      loopCheck s = (s.setCntr (s.cntr - 1)).setPc s.pcStk.top) ∧
    (s.loopEnd = some s.pc → s.loopTerm = 14 → s.cntr.toNat ≤ 1 →
      loopCheck s = (popPc (popLoop (popCntr s))).setPc (s.pc + 1))

/-- With the counter at N, 1 <= N, and a CE loop ending at e on top, the k-th check at e (k < N) goes back
to the loop start with the counter at N - k and the loop still armed; the N-th leaves to e + 1 with the
counter at the value that was on its stack and one entry popped from each of the three stacks (R105). -/
def Obligations.CountedLoopRunsN : Prop :=
  ∀ (s : State) (e : Addr), s.loopEnd = some e → s.loopTerm = 14 → 1 ≤ s.cntr.toNat →
    let check := fun u : State => loopCheck (u.setPc e);
    (∀ k, 1 ≤ k → k < s.cntr.toNat →
      (check^[k] s).pc = s.pcStk.top ∧ (check^[k] s).cntr.toNat = s.cntr.toNat - k ∧
      (check^[k] s).loopEnd = some e ∧ (check^[k] s).loopStk = s.loopStk ∧ (check^[k] s).pcStk = s.pcStk) ∧
    let t := check^[s.cntr.toNat] s
    t.pc = e + 1 ∧ t.cntr = s.cntrStk.top ∧ t.cntrStk = s.cntrStk.pop ∧ t.loopStk = s.loopStk.pop ∧
      t.pcStk = s.pcStk.pop

/-- CondTable for each of the 16 codes, as a boolean of AZ, AN, AV, AC, AS, MV (R102). -/
def Obligations.ConditionTable : Prop :=
  ∀ f : BitVec 8,
    let az := f.getLsbD 0; let an := f.getLsbD 1; let av := f.getLsbD 2
    let ac := f.getLsbD 3; let asn := f.getLsbD 4; let mv := f.getLsbD 6;
    (List.range 16).map (fun k => condTable (Cond.ofCode (BitVec.ofNat 4 k)) f) =
      [az, !az, !((an ^^ av) || az), (an ^^ av) || az, an ^^ av, !(an ^^ av), av, !av, ac, !ac, asn, !asn,
        mv, !mv, false, true]

/-- Cond(c): for a code other than 14 the table entry and no side effect; for code 14 the counter goes down
by one and the answer is true while the old value is above 1, else the counter is popped from its stack
and the answer is false (R104). -/
def Obligations.ConditionCounts : Prop :=
  ∀ (c : Cond) (s : State),
    (c ≠ .notCe → evalCond c s = (condTable c s.astat, s)) ∧
    (c = .notCe → 1 < s.cntr.toNat → evalCond c s = (true, s.setCntr (BitVec.ofInt 16 (s.cntr.toNat - 1)))) ∧
    (c = .notCe → s.cntr.toNat ≤ 1 →
      evalCond c s = (false, popCntr (s.setCntr (BitVec.ofInt 16 (s.cntr.toNat - 1)))))

/-- With AV_LATCH off, after the unconditional X - Y the conditions LT, GE, LE, GT, EQ, NE hold exactly when
X is less, not less, not greater, greater, equal, not equal to Y as signed numbers, also when the
subtraction overflowed or AR saturated (R103). -/
def Obligations.CompareAfterSubtract : Prop :=
  ∀ (z : Bool) (y : Yop) (x : Xop) (s : State), s.mstat.getLsbD 2 = false →
    ∃ t, exec (.ccSub z y x .always) s = .next t ∧
      let X := (aluX s.bank x).toInt; let Y := (aluY s.bank y).toInt
      condTable .lt t.astat = decide (X < Y) ∧ condTable .ge t.astat = decide (Y ≤ X) ∧
      condTable .le t.astat = decide (X ≤ Y) ∧ condTable .gt t.astat = decide (Y < X) ∧
      condTable .eq t.astat = decide (X = Y) ∧ condTable .ne t.astat = decide (X ≠ Y)

/-- For every condition, destination and operands, the nine conditional adder functions (Y+1, X+Y+C, X+Y,
-Y, X-Y+C-1, X-Y, Y-1, Y-X, Y-X+C-1: constructors ccIncY, ccAddC, ccAdd, ccNegY, ccSubC, ccSub, ccDecY,
ccRsub, ccRsubC) answer the next state: under the condition, the exact signed sum reduced to 16 bits in
AF or, saturated under AR_SAT, in AR, with AZ, AN, AV, AC; carry from the exact unsigned sum (no borrow
for a subtraction); everything else unchanged; else only the counter effect of code 14. -/
def Obligations.AluArithmetic : Prop :=
  ∀ (z : Bool) (y : Yop) (x : Xop) (c : Cond) (s : State),
    let X := aluX s.bank x; let Y := aluY s.bank y; let C := (s.astat.getLsbD 3).toNat
    let does := fun (i : Instr) (v : Int) (carry : Prop) [Decidable carry] =>
      exec i s = .next (gated c (arithmetic z v (decide carry)) s)
    does (.ccIncY z y x c) (Y.toInt + 1) (65536 ≤ Y.toNat + 1) ∧
    does (.ccAddC z y x c) (X.toInt + Y.toInt + C) (65536 ≤ X.toNat + Y.toNat + C) ∧
    does (.ccAdd z y x c) (X.toInt + Y.toInt) (65536 ≤ X.toNat + Y.toNat) ∧
    does (.ccNegY z y x c) (0 - Y.toInt) (Y.toNat ≤ 0) ∧
    does (.ccSubC z y x c) (X.toInt - Y.toInt + C - 1) (Y.toNat + 1 ≤ X.toNat + C) ∧
    does (.ccSub z y x c) (X.toInt - Y.toInt) (Y.toNat ≤ X.toNat) ∧
    does (.ccDecY z y x c) (Y.toInt - 1) (1 ≤ Y.toNat) ∧
    does (.ccRsub z y x c) (Y.toInt - X.toInt) (X.toNat ≤ Y.toNat) ∧
    does (.ccRsubC z y x c) (Y.toInt - X.toInt + C - 1) (X.toNat + 1 ≤ Y.toNat + C)

/-- For every condition, destination and operands, PASS Y, NOT Y, NOT X, X AND Y, X OR Y, X XOR Y
(constructors ccPassY, ccNotY, ccNotX, ccAndXY, ccOrXY, ccXorXY) answer the next state: under the
condition, each bit of AR or AF is that function of the operand bits, AZ and AN follow the result, AC is
0, AV is 0 or kept under AV_LATCH, everything else unchanged; else only the counter effect of code 14. -/
def Obligations.AluLogic : Prop :=
  ∀ (z : Bool) (y : Yop) (x : Xop) (c : Cond) (s : State),
    let X := fun k : Fin 16 => (aluX s.bank x).getLsbD k; let Y := fun k : Fin 16 => (aluY s.bank y).getLsbD k
    let does := fun (i : Instr) (bit : Fin 16 → Bool) =>
      exec i s = .next (gated c (logical z (BitVec.ofFnLE bit)) s)
    does (.ccPassY z y x c) (fun k => Y k) ∧
    does (.ccNotY z y x c) (fun k => !Y k) ∧
    does (.ccNotX z y x c) (fun k => !X k) ∧
    does (.ccAndXY z y x c) (fun k => X k && Y k) ∧
    does (.ccOrXY z y x c) (fun k => X k || Y k) ∧
    does (.ccXorXY z y x c) (fun k => X k ^^ Y k)

/-- For every condition, destination and operands, ABS X (constructor ccAbsX) answers the next state: under
the condition, the magnitude reduced to 16 bits (0x7FFF in AR for -32768 under AR_SAT), AS the sign of
X, AV set only by -32768, AC 0, everything else unchanged; else only the counter effect of code 14
(R131). -/
def Obligations.AluAbsolute : Prop :=
  ∀ (z : Bool) (y : Yop) (x : Xop) (c : Cond) (s : State), let X := aluX s.bank x
    exec (.ccAbsX z y x c) s = .next
      (gated c (aluResult z (BitVec.ofNat 16 X.toInt.natAbs) (decide (X.toInt = -32768)) false
        (decide (X.toInt < 0))) s)

/-- DIVS and DIVQ (constructors divs, divq) answer the next state with AF, AY0 and AQ as the two rules give
them in integers, every other flag and all other state unchanged (R132, R133). -/
def Obligations.DivideSteps : Prop :=
  ∀ (y : Yop) (x : Xop) (s : State),
    let X := aluX s.bank x; let Y := aluY s.bank y; let b := s.bank
    let q := X.getLsbD 15 ^^ Y.getLsbD 15
    let r : Word := BitVec.ofInt 16 (if s.astat.getLsbD 5 then b.af.toInt + X.toInt else b.af.toInt - X.toInt)
    let p := r.getLsbD 15 ^^ X.getLsbD 15
    exec (.divs y x) s = .next
      ((s.setBank { b with af := BitVec.ofNat 16 (2 * Y.toNat + b.ay0.toNat / 32768),
                           ay0 := BitVec.ofNat 16 (2 * b.ay0.toNat + q.toNat) }).setAstat
        (setFlag s.astat 5 q)) ∧
    exec (.divq x) s = .next
      ((s.setBank { b with af := BitVec.ofNat 16 (2 * r.toNat + b.ay0.toNat / 32768),
                           ay0 := BitVec.ofNat 16 (2 * b.ay0.toNat + (!p).toNat) }).setAstat
        (setFlag s.astat 5 p))

/-- For every condition, destination and operands, X*Y, MR+X*Y and MR-X*Y in the formats SS, SU, US, UU
(constructors ccMulSS, ccMulSU, ccMulUS, ccMulUU, ccAddSS, ccAddSU, ccAddUS, ccAddUU, ccSubSS, ccSubSU,
ccSubUS, ccSubUU) answer the next state: under the condition, the exact sum 2xy, MR + 2xy or MR - 2xy
modulo 2^40 in MR, or its bits 31 to 16 in MF, MV when it is outside 32 signed bits, everything else
unchanged; else only the counter effect of code 14. -/
def Obligations.MacProducts : Prop :=
  ∀ (z : Bool) (y : Yop) (x : Xop) (c : Cond) (s : State),
    let A := s.bank.mr.toInt
    let xs := (macX s.bank x).toInt; let xu : Int := (macX s.bank x).toNat
    let ys := (macY s.bank y).toInt; let yu : Int := (macY s.bank y).toNat
    let does := fun (i : Instr) (v : Int) => exec i s = .next (gated c (macResult z (BitVec.ofInt 40 v)) s)
    does (.ccMulSS z y x c) (2 * xs * ys) ∧ does (.ccMulSU z y x c) (2 * xs * yu) ∧
    does (.ccMulUS z y x c) (2 * xu * ys) ∧ does (.ccMulUU z y x c) (2 * xu * yu) ∧
    does (.ccAddSS z y x c) (A + 2 * xs * ys) ∧ does (.ccAddSU z y x c) (A + 2 * xs * yu) ∧
    does (.ccAddUS z y x c) (A + 2 * xu * ys) ∧ does (.ccAddUU z y x c) (A + 2 * xu * yu) ∧
    does (.ccSubSS z y x c) (A - 2 * xs * ys) ∧ does (.ccSubSU z y x c) (A - 2 * xs * yu) ∧
    does (.ccSubUS z y x c) (A - 2 * xu * ys) ∧ does (.ccSubUU z y x c) (A - 2 * xu * yu)

/-- For every condition, destination and operands, X*Y (RND), MR+X*Y (RND), MR-X*Y (RND) (constructors
ccMulRnd, ccAddRnd, ccSubRnd) answer the next state: under the condition, the exact sum rounded at bit
16 to the nearest value, a tie to the even one, bits 15 to 0 as the addition of 0x8000 leaves them, MV
from the result, everything else unchanged; else only the counter effect of code 14. -/
def Obligations.MacRounded : Prop :=
  ∀ (z : Bool) (y : Yop) (x : Xop) (c : Cond) (s : State),
    let A := s.bank.mr.toInt; let P := 2 * (macX s.bank x).toInt * (macY s.bank y).toInt
    exec (.ccMulRnd z y x c) s = .next (gated c (macResult z (roundedHalfEven P)) s) ∧
    exec (.ccAddRnd z y x c) s = .next (gated c (macResult z (roundedHalfEven (A + P))) s) ∧
    exec (.ccSubRnd z y x c) s = .next (gated c (macResult z (roundedHalfEven (A - P))) s)

/-- SAT MR (constructor satMr): with MV set, MR becomes the 32-bit limit on its own side (the negative one
is the default of MR_SAT_NEG, log 4), with MV clear nothing changes (R161). After any unconditional MAC
operation into MR, SAT MR leaves the value clamped to -2^31 to 2^31 - 1. -/
def Obligations.SaturateClamps : Prop :=
  (∀ s : State, exec .satMr s = .next (if s.astat.getLsbD 6 then
      s.setBank { s.bank with mr := BitVec.ofInt 40 (if s.bank.mr.toInt < 0 then -2147483648 else 2147483647) }
    else s)) ∧
  ∀ (f : MacFn) (y : Yop) (x : Xop) (s : State), f ≠ .nop →
    ∃ u t, exec (ccInstr (.mac f) false y x .always) s = .next u ∧ exec .satMr u = .next t ∧
      t.bank.mr.toInt = max (-2147483648) (min 2147483647 u.bank.mr.toInt)

/-- For every condition and input, the LSHIFT, ASHIFT and NORM functions (constructors lshiftHi, lshiftHiOr,
lshiftLo, lshiftLoOr, ashiftHi, ashiftHiOr, ashiftLo, ashiftLoOr, normHi, normHiOr, normLo, normLoOr)
answer the next state: under the condition SR is, or is OR-ed with, the 32-bit field that has the input
at the position the code in SE gives (HI: bit 16, LO: bit 0; LSHIFT and ASHIFT left for a positive code,
NORM for a negative one), zeros below, and above 0 (LSHIFT, NORM LO), the sign (ASHIFT) or AC (NORM HI);
everything else unchanged; else only the counter effect of code 14. -/
def Obligations.ConditionalShifts : Prop :=
  ∀ (x : Xop) (c : Cond) (s : State),
    let v := shiftX s.bank x; let k := (s.bank.se.extractLsb' 0 8).toInt; let ac := s.astat.getLsbD 3
    let does := fun (i : Instr) (accumulate : Bool) (r : BitVec 32) =>
      exec i s = .next (gated c (withSr accumulate r) s)
    does (.lshiftHi x c) false (placed v false (16 + k)) ∧ does (.lshiftHiOr x c) true (placed v false (16 + k)) ∧
    does (.lshiftLo x c) false (placed v false k) ∧ does (.lshiftLoOr x c) true (placed v false k) ∧
    does (.ashiftHi x c) false (placed v v.msb (16 + k)) ∧ does (.ashiftHiOr x c) true (placed v v.msb (16 + k)) ∧
    does (.ashiftLo x c) false (placed v v.msb k) ∧ does (.ashiftLoOr x c) true (placed v v.msb k) ∧
    does (.normHi x c) false (placed v ac (16 - k)) ∧ does (.normHiOr x c) true (placed v ac (16 - k)) ∧
    does (.normLo x c) false (placed v false (-k)) ∧ does (.normLoOr x c) true (placed v false (-k))

/-- For every input and code, the LSHIFT and ASHIFT functions by an immediate (constructors lshiftHiBy,
lshiftHiOrBy, lshiftLoBy, lshiftLoOrBy, ashiftHiBy, ashiftHiOrBy, ashiftLoBy, ashiftLoOrBy) answer the
next state with SR as the conditional shifts give it for that code, SE neither read nor written,
everything else unchanged; the reserved codes (constructor reservedShi) change nothing; and the words
00001111 xFFFFXXX EEEEEEEE decode to them (R189). -/
def Obligations.ImmediateShifts : Prop :=
  (∀ (x : Xop) (e : BitVec 8) (s : State),
    let v := shiftX s.bank x; let k := e.toInt
    let does := fun (i : Instr) (accumulate : Bool) (r : BitVec 32) => exec i s = .next (withSr accumulate r s)
    does (.lshiftHiBy x e) false (placed v false (16 + k)) ∧
    does (.lshiftHiOrBy x e) true (placed v false (16 + k)) ∧
    does (.lshiftLoBy x e) false (placed v false k) ∧ does (.lshiftLoOrBy x e) true (placed v false k) ∧
    does (.ashiftHiBy x e) false (placed v v.msb (16 + k)) ∧
    does (.ashiftHiOrBy x e) true (placed v v.msb (16 + k)) ∧
    does (.ashiftLoBy x e) false (placed v v.msb k) ∧ does (.ashiftLoOrBy x e) true (placed v v.msb k)) ∧
  (∀ (sf : BitVec 3) (x : Xop) (e : BitVec 8) (s : State), exec (.reservedShi sf x e) s = .next s) ∧
  ∀ (b : BitVec 1) (sf : BitVec 4) (x : BitVec 3) (e : BitVec 8),
    decodeWord (cat 0x0F#8 (cat b (cat sf (cat x e)))) =
      (if sf.getLsbD 3 then .reservedShi (sf.extractLsb' 0 3) (Xop.ofCode x) e
      else ([Instr.lshiftHiBy, .lshiftHiOrBy, .lshiftLoBy, .lshiftLoOrBy, .ashiftHiBy, .ashiftHiOrBy,
        .ashiftLoBy, .ashiftLoOrBy].getD sf.toNat .lshiftHiBy) (Xop.ofCode x) e)

/-- For every condition and input, EXP HI, EXP HIX, EXP LO and EXPADJ (constructors expHi, expHix, expLo,
expAdj) answer the next state: under the condition SE, SB and SS as R184 to R187 give them from the
number of redundant sign bits, everything else unchanged; else only the counter effect of code 14. -/
def Obligations.ExponentDetection : Prop :=
  ∀ (x : Xop) (c : Cond) (s : State),
    let v := shiftX s.bank x; let red : Int := redundant v
    let hi := fun u : State =>
      (u.setBank { u.bank with se := BitVec.ofInt 16 (-red) }).setAstat (setFlag u.astat 7 (v.getLsbD 15))
    exec (.expHi x c) s = .next (gated c hi s) ∧
    exec (.expHix x c) s = .next (gated c (fun u =>
      if u.astat.getLsbD 2 then
        (u.setBank { u.bank with se := 1 }).setAstat (setFlag u.astat 7 (!v.getLsbD 15))
      else hi u) s) ∧
    exec (.expLo x c) s = .next (gated c (fun u =>
      if u.bank.se.toInt = -15 then
        u.setBank { u.bank with se := BitVec.ofInt 16 (-(15 + (runDown v (u.astat.getLsbD 7) 15 : Int))) }
      else u) s) ∧
    exec (.expAdj x c) s = .next (gated c (fun u =>
      if u.bank.sb.toInt < -red then u.setBank { u.bank with sb := BitVec.ofInt 16 (-red) } else u) s)

/-- EXP (HI) of an input and then NORM (HI) of the same input leave in SR the input times 2^(16 - SE)
exactly as a signed number, and bits 31 and 30 differ unless the input is 0 (R194 is an instance). -/
def Obligations.NormalizeAfterExponent : Prop :=
  ∀ (x : Xop) (s : State), ∃ u t, exec (.expHi x .always) s = .next u ∧ exec (.normHi x .always) u = .next t ∧
    ∃ k : Nat, k ≤ 15 ∧ u.bank.se.toInt = -(k : Int) ∧
      t.bank.sr.toInt = (shiftX s.bank x).toInt * 2 ^ (16 + k) ∧
      (shiftX s.bank x ≠ 0 → t.bank.sr.getLsbD 31 ≠ t.bank.sr.getLsbD 30)

/-- Compute with register move and shift with register move (constructors computeMove, shiftMove) answer the
next state: the effect of the operation alone, and then the destination written with the value its
source had before the instruction (R191, R283). The register read and write are those of RegisterReads
and RegisterWrites. -/
def Obligations.RegisterMoveAlongside : Prop :=
  ∀ (z : Bool) (y : Yop) (x : Xop) (d sd : Dreg) (s : State),
    (∀ f : Amf, ∃ u, exec (ccInstr f z y x .always) s = .next u ∧
      exec (.computeMove f z y x d sd) s = .next (wrDreg d (rdDreg s sd) u)) ∧
    ∀ f : ShiftFn, ∃ u, exec (shcInstr f x .always) s = .next u ∧
      exec (.shiftMove f x d sd) s = .next (wrDreg d (rdDreg s sd) u)

/-- Compute or shift with a program-memory read (constructors computePmRead, shiftPmRead) answer the next
state: the effect of the operation alone, PX with the low byte of the word read at the address formed
before the instruction, the generator stepped from its old values, the destination written last with the
word's upper 16 bits; a device at that address has seen one read; both memories unchanged (R284, R192
read form). -/
def Obligations.ProgramMemoryReads : Prop :=
  ∀ (z : Bool) (y : Yop) (x : Xop) (d : Dreg) (n m : Fin 8) (s : State),
    let w := pmRead s (ea s n)
    let after := fun u : State =>
      wrDreg d (w.extractLsb' 8 16) (((portPm (ea s n) u).setPx (w.extractLsb' 0 8)).setGen n (stepped s n m))
    let alone := fun u : State => u.pm = s.pm ∧ u.dm = s.dm ∧ u.events = s.events;
    (∀ f : Amf, ∃ u, exec (ccInstr f z y x .always) s = .next u ∧ alone u ∧
      exec (.computePmRead f z y x d n m) s = .next (after u)) ∧
    ∀ f : ShiftFn, ∃ u, exec (shcInstr f x .always) s = .next u ∧ alone u ∧
      exec (.shiftPmRead f x d n m) s = .next (after u)

/-- Compute or shift with a program-memory write (constructors computePmWrite, shiftPmWrite) answer the next
state: the effect of the operation alone and the generator stepped; the register as it was before with
PX below it goes to the address formed before the instruction: the word there holds it, every other byte
of program memory as before, or the device there has seen the write, program memory as before; all of
data memory as before (R285, R192 write form). The bytes of a word are log 2, devices log 3. -/
def Obligations.ProgramMemoryWrites : Prop :=
  ∀ (z : Bool) (y : Yop) (x : Xop) (d : Dreg) (n m : Fin 8) (s : State),
    let stores := fun (u t : State) =>
      t = { u.setGen n (stepped s n m) with pm := t.pm, events := t.events } ∧
      StoresPm s t (ea s n) (cat (rdDreg s d) s.px) ∧ t.dm = s.dm
    (∀ f : Amf, ∃ u t, exec (ccInstr f z y x .always) s = .next u ∧
      exec (.computePmWrite f z y x d n m) s = .next t ∧ stores u t) ∧
    ∀ f : ShiftFn, ∃ u t, exec (shcInstr f x .always) s = .next u ∧
      exec (.shiftPmWrite f x d n m) s = .next t ∧ stores u t

/-- Compute or shift with a data-memory read (constructors computeDmRead, shiftDmRead) answer the next
state: the effect of the operation alone, the generator stepped from its old values, the destination
written last with the word read at the address formed before the instruction; a device at that address
has seen one read; both memories unchanged (R286, R193 read form). -/
def Obligations.DataMemoryReads : Prop :=
  ∀ (z : Bool) (y : Yop) (x : Xop) (d : Dreg) (n m : Fin 8) (s : State),
    let after := fun u : State =>
      wrDreg d (dmRead s (ea s n)) ((portDm (ea s n) u).setGen n (stepped s n m))
    let alone := fun u : State => u.pm = s.pm ∧ u.dm = s.dm ∧ u.events = s.events;
    (∀ f : Amf, ∃ u, exec (ccInstr f z y x .always) s = .next u ∧ alone u ∧
      exec (.computeDmRead f z y x d n m) s = .next (after u)) ∧
    ∀ f : ShiftFn, ∃ u, exec (shcInstr f x .always) s = .next u ∧ alone u ∧
      exec (.shiftDmRead f x d n m) s = .next (after u)

/-- Compute or shift with a data-memory write, the immediate store and the direct store (constructors
computeDmWrite, shiftDmWrite, storeImm, storeDirect) answer the next state: the effect of the operation
alone and the generator stepped, where the form has them; the register as it was before, or the
immediate, goes to the address formed before the instruction: the word there holds it, every other byte
of data memory as before, or the device there has seen the write, data memory as before; all of program
memory as before; nothing else changes (R287, R193 write form, R227, R226). The bytes of a word are log
2, devices log 3. -/
def Obligations.DataMemoryWrites : Prop :=
  ∀ (z : Bool) (y : Yop) (x : Xop) (d : Dreg) (n m : Fin 8) (s : State),
    let stores := fun (u t : State) (v : Word) =>
      t = { u.setGen n (stepped s n m) with dm := t.dm, events := t.events } ∧
      StoresDm s t (ea s n) v ∧ t.pm = s.pm
    (∀ f : Amf, ∃ u t, exec (ccInstr f z y x .always) s = .next u ∧
      exec (.computeDmWrite f z y x d n m) s = .next t ∧ stores u t (rdDreg s d)) ∧
    (∀ f : ShiftFn, ∃ u t, exec (shcInstr f x .always) s = .next u ∧
      exec (.shiftDmWrite f x d n m) s = .next t ∧ stores u t (rdDreg s d)) ∧
    (∀ v : Word, ∃ t, exec (.storeImm v n m) s = .next t ∧ stores s t v) ∧
    ∀ (g : RegGroup) (a : Addr) (r : BitVec 4), ∃ t, exec (.storeDirect g a r) s = .next t ∧
      t = { s with dm := t.dm, events := t.events } ∧ StoresDm s t a (tableRead s g r)

/-- Compute with dual operand fetch (constructor computeDual), with its generators in the two groups,
answers the next state: the effect of the operation alone into AR or MR, PX, both generators stepped
from their old values, then the data-memory word in the X register that DD codes (group 0, codes 0 to 3)
and the program-memory word's upper 16 bits in the Y register that PD codes (group 0, codes 4 to 7); the
data-memory read comes first, the program-memory read second, and a device has seen each; both memories
unchanged (R288, R77, R59). -/
def Obligations.DualFetch : Prop :=
  ∀ (f : Amf) (y : Yop) (x : Xop) (dx : DualX) (dn dm : Fin 8) (dy : DualY) (pn pm : Fin 8) (s : State),
    (Instr.computeDual f y x dx dn dm dy pn pm).WellFormed →
    let w := pmRead (portDm (ea s dn) s) (ea s pn)
    ∃ u, exec (ccInstr f false y x .always) s = .next u ∧ u.pm = s.pm ∧ u.dm = s.dm ∧ u.events = s.events ∧
      exec (.computeDual f y x dx dn dm dy pn pm) s = .next
        (tableWrite .data (BitVec.ofNat 4 (4 + dy.code.toNat)) (w.extractLsb' 8 16)
          (tableWrite .data (BitVec.ofNat 4 dx.code.toNat) (dmRead s (ea s dn))
            ((((portPm (ea s pn) (portDm (ea s dn) u)).setPx (w.extractLsb' 0 8)).setGen dn
              (stepped s dn dm)).setGen pn (stepped s pn pm))))

/-- LDN, LDD, the direct load and the register move (constructors loadImm14, loadImm16, loadDirect, move)
answer the next state, in which the named register has its value written by the tables of R211, R213,
R214 with their side effects (SE, SB, M keep a sign-extended field, MR1 fills MR2, I and L recompute the
base and the mask, CNTR pushes, SSTAT and the codes with no register ignore the write); nothing else
changes. The value: the immediate, sign-extended from 14 bits for LDN; what the read of data memory
gives, a device at that address having seen it (log 3); the source register read before the write. A
register moved to itself is written like any other (R220 also says that nothing changes but for CNTR;
DEDUCED, log 25). -/
def Obligations.RegisterWrites : Prop :=
  ∀ (g sg : RegGroup) (r sr : BitVec 4) (d : Dreg) (v : Word) (v14 : BitVec 14) (a : Addr) (s : State),
    exec (.loadImm14 g v14 r) s = .next (tableWrite g r (BitVec.ofInt 16 v14.toInt) s) ∧
    exec (.loadImm16 v d) s = .next (tableWrite .data d.code v s) ∧
    exec (.loadDirect g a r) s = .next (tableWrite g r (dmRead s a) (portDm a s)) ∧
    exec (.move g r sg sr) s = .next (tableWrite g r (tableRead s sg sr) s)

/-- Every group and index reads what the tables of R211, R213, R214 give; a group and index with no register
reads 0 and a write of it, by any instruction, changes nothing (R216). The X operand codes of the ALU,
the MAC and the shifter and the Y operand codes of the ALU and the MAC select the registers of the
tables of R75 and R76, shifter code 1 being SI and Y code 3 being 0. The registers are those of the bank
MSTAT[0] selects. -/
def Obligations.RegisterReads : Prop :=
  (∀ (s : State) (g : RegGroup) (r : BitVec 4), rdReg s g r = tableRead s g r) ∧
  (∀ (s : State) (d : Dreg), rdDreg s d = tableRead s .data d.code) ∧
  (∀ (s : State) (d : Dreg) (v : Word), wrDreg d v s = tableWrite .data d.code v s) ∧
  (∀ (g : RegGroup) (r : BitVec 4),
    (g = .dag1 ∧ 12 ≤ r.toNat) ∨ (g = .dag2 ∧ 12 ≤ r.toNat) ∨ (g = .ctl ∧ 8 ≤ r.toNat) →
    ∀ s : State, rdReg s g r = 0 ∧ ∀ v : Word, wrReg g r v s = s) ∧
  (∀ s : State, s.bank = if s.mstat.getLsbD 0 then s.bank1 else s.bank0) ∧
  ∀ (b : Bank) (x : BitVec 3) (y : BitVec 2),
    let results := [b.ar, b.mr.extractLsb' 0 16, b.mr.extractLsb' 16 16,
      BitVec.ofInt 16 (b.mr.extractLsb' 32 8).toInt, b.sr.extractLsb' 0 16, b.sr.extractLsb' 16 16]
    aluX b (Xop.ofCode x) = ([b.ax0, b.ax1] ++ results).getD x.toNat 0 ∧
    macX b (Xop.ofCode x) = ([b.mx0, b.mx1] ++ results).getD x.toNat 0 ∧
    shiftX b (Xop.ofCode x) = ([b.si, b.si] ++ results).getD x.toNat 0 ∧
    aluY b (Yop.ofCode y) = [b.ay0, b.ay1, b.af, 0].getD y.toNat 0 ∧
    macY b (Yop.ofCode y) = [b.my0, b.my1, b.mf, 0].getD y.toNat 0

/-- MODIFY (constructor modify) answers the next state: the index is the exact sum of the index and the
signed modify value, corrected once by the length when it falls below the base or beyond base + length,
modulo 2^14; nothing else changes (R205, R228); and its words decode to it. -/
def Obligations.ModifySteps : Prop :=
  (∀ (n m : Fin 8) (s : State), exec (.modify n m) s = .next (s.setGen n (stepped s n m))) ∧
  ∀ (u : BitVec 11) (g : BitVec 1) (i m : BitVec 2),
    decodeWord (cat 0x09#8 (cat u (cat g (cat i m)))) =
      .modify (Fin.ofNat 8 (4 * g.toNat + i.toNat)) (Fin.ofNat 8 (4 * g.toNat + m.toNat))

/-- Bit k of the effective address of generator n is, with j = 13 - k when MSTAT[1] is set and n < 4 and j =
k otherwise, bit j of the index where the mask has a 1, or bit j of the base (R203, R204); BitRev swaps
bit k with bit 13 - k and is its own inverse (R201). That generators 0 to 3 alone are reversed is the
default of REV_SCOPE (log 4, DESIGN CHOICE). -/
def Obligations.EffectiveAddress : Prop :=
  (∀ (s : State) (n : Fin 8) (k : Nat), k < 14 →
    let g := s.gen n
    let j := if s.mstat.getLsbD 1 ∧ n.val < 4 then 13 - k else k;
    (ea s n).getLsbD k = ((g.i.getLsbD j && g.mask.getLsbD j) || g.base.getLsbD j)) ∧
  ∀ x : Addr, bitRev (bitRev x) = x ∧ ∀ k, k < 14 → (bitRev x).getLsbD k = x.getLsbD (13 - k)

/-- MaskTable(0) is 0x3FFF; for a length of at least 1 it is 2^k - 1 with k the ceiling of the base-2
logarithm, the smallest value of that form not below the length minus 1 (R202). -/
def Obligations.LengthMask : Prop :=
  maskTable 0 = 0x3FFF ∧
  ∀ l : Addr, l ≠ 0 →
    (maskTable l).toNat = 2 ^ Nat.clog 2 l.toNat - 1 ∧ l.toNat - 1 ≤ (maskTable l).toNat ∧
    ∀ k, l.toNat - 1 ≤ 2 ^ k - 1 → (maskTable l).toNat ≤ 2 ^ k - 1

/-- With a length L of at least 1, a modify value between -L and L, the index in base to base + L - 1 and
the buffer below 2^14: after k modifies the index is base plus (its offset + k times the modify value)
modulo L; so L modifies by 1 return it to where it was (R205's property). -/
def Obligations.CircularBuffer : Prop :=
  ∀ (s : State) (n m : Fin 8), let g := s.gen n; let v := ((s.gen m).m.extractLsb' 0 14).toInt
    0 < g.l.toNat → -(g.l.toNat : Int) ≤ v → v ≤ g.l.toNat →
    g.base.toNat ≤ g.i.toNat → g.i.toNat < g.base.toNat + g.l.toNat → g.base.toNat + g.l.toNat ≤ 16384 →
    (∀ k : Nat, ((((modify n m)^[k] s).gen n).i.toNat : Int) =
      g.base.toNat + ((g.i.toNat - g.base.toNat) + k * v) % g.l.toNat) ∧
    (v = 1 → (((modify n m)^[g.l.toNat] s).gen n).i = g.i)

/-- For a generator whose invariants hold, with the index inside the buffer or the length 0, and bit
reversal not acting on it, the effective address is the index itself; with bit reversal, its reversal
(R203, R208). That bit reversal acts on generators 0 to 3 alone is the default of REV_SCOPE (log 4,
DESIGN CHOICE). -/
def Obligations.BufferAddressIsIndex : Prop :=
  ∀ (s : State) (n : Fin 8), let g := s.gen n
    g.Sound → (g.l = 0 ∨ (g.base.toNat ≤ g.i.toNat ∧ g.i.toNat < g.base.toNat + g.l.toNat)) →
    ea s n = if s.mstat.getLsbD 1 ∧ n.val < 4 then bitRev g.i else g.i

/-- JUMP, CALL, JUMP (I), CALL (I), RTS, RTI (constructors jump, call, jumpInd, callInd, rts, rti) answer
the next state: under the condition PC is the target, the index register, or the popped value, with PC
pushed first by a call and the status popped by RTI; else only the counter effect of code 14; and their
words decode to them (R245 to R249). -/
def Obligations.Transfers : Prop :=
  (∀ (a : Addr) (n : Fin 8) (c : Cond) (s : State),
    let does := fun (i : Instr) (k : State → State) => exec i s = .next (gated c k s)
    does (.jump a c) (fun u => u.setPc a) ∧ does (.call a c) (fun u => (pushPc u.pc u).setPc a) ∧
    does (.jumpInd n c) (fun u => u.setPc (u.gen n).i) ∧
    does (.callInd n c) (fun u => (pushPc u.pc u).setPc (u.gen n).i) ∧
    does (.rts c) (fun u => (popPc u).setPc u.pcStk.top) ∧
    does (.rti c) (fun u => popSts ((popPc u).setPc u.pcStk.top))) ∧
  ∀ (a : Addr) (k : BitVec 4) (u8 : BitVec 8) (u1 : BitVec 1) (u11 : BitVec 11) (i : BitVec 2),
    let c := Cond.ofCode k; let n := Fin.ofNat 8 (4 + i.toNat)
    decodeWord (cat 0b000110#6 (cat a k)) = .jump a c ∧ decodeWord (cat 0b000111#6 (cat a k)) = .call a c ∧
    decodeWord (cat 0x0B#8 (cat u8 (cat i (cat u1 (cat 0#1 k))))) = .jumpInd n c ∧
    decodeWord (cat 0x0B#8 (cat u8 (cat i (cat u1 (cat 1#1 k))))) = .callInd n c ∧
    decodeWord (cat 0x0A#8 (cat u11 (cat 0#1 k))) = .rts c ∧
    decodeWord (cat 0x0A#8 (cat u11 (cat 1#1 k))) = .rti c

/-- An unconditional CALL and then an unconditional RTS leave PC, the stack pointer and everything else as
before the call, but for one cell of the PC stack and the status word SSTAT, whatever the depth, also
when the push wraps (R246, R248, R30). -/
def Obligations.CallThenReturn : Prop :=
  ∀ (a : Addr) (s : State), ∃ u t, exec (.call a .always) s = .next u ∧ u.pc = a ∧ u.pcStk.top = s.pc ∧
    exec (.rts .always) u = .next t ∧
    t = { s with pcStk := { cells := u.pcStk.cells, sp := s.pcStk.sp }, sstat := t.sstat } ∧
    (∀ j, 2 ≤ j → t.sstat.getLsbD j = s.sstat.getLsbD j) ∧
    (s.pcStk.sp ≠ 15 → t.sstat.getLsbD 1 = s.sstat.getLsbD 1)

/-- DO UNTIL, the stack control word, mode control and IDLE (constructors doUntil, stk, mode, idle) answer
the next state: the loop and then PC pushed; the pops of PC, loop and counter and the status push or
pop, in that order, PC unchanged; each mode bit cleared by code 10, set by 11, left by 00 and 01; IDLE
set; nothing else changes (R243, R250, R252, R255). -/
def Obligations.SequencerWords : Prop :=
  (∀ (a : Addr) (t : BitVec 4) (s : State),
    exec (.doUntil a t) s = .next (pushPc s.pc (pushLoop a t s)) ∧ exec .idle s = .next (s.setIdle true)) ∧
  (∀ (p l c : Bool) (sts : BitVec 2) (s : State),
    let s1 := if p then popPc s else s
    let s2 := if l then popLoop s1 else s1
    let s3 := if c then popCntr s2 else s2
    exec (.stk p l c sts) s = .next (if sts = 2 then pushSts s3 else if sts = 3 then popSts s3 else s3)) ∧
  ∀ (sat latch rev bank : BitVec 2) (s : State), ∃ v,
    exec (.mode sat latch rev bank) s = .next (s.setMstat v) ∧
    ∀ p ∈ [(bank, 0), (rev, 1), (latch, 2), (sat, 3)],
      v.getLsbD p.2 = if p.1 = 2 then false else if p.1 = 3 then true else s.mstat.getLsbD p.2

/-- NOP and the reserved primary opcodes (constructors nop, reserved01, reserved02, reserved03, reserved08)
change nothing in step 5, and the words of R240 decode to them; the MAC no operation (constructor ccNop)
has only the counter effect of its condition (R240, R145). -/
def Obligations.NoOperation : Prop :=
  (∀ s : State, ∀ i ∈ [Instr.nop, .reserved01, .reserved02, .reserved03, .reserved08], exec i s = .next s) ∧
  (∀ v : BitVec 16, decodeWord (cat 0x00#8 v) = .nop ∧ decodeWord (cat 0x01#8 v) = .reserved01 ∧
    decodeWord (cat 0x03#8 v) = .reserved03 ∧ decodeWord (cat 0x08#8 v) = .reserved08) ∧
  (∀ v : BitVec 15, decodeWord (cat 0x02#8 (cat 0#1 v)) = .reserved02) ∧
  ∀ (z : Bool) (y : Yop) (x : Xop) (c : Cond) (s : State),
    exec (.ccNop z y x c) s = .next (gated c (fun u => u) s)

/-- A step that fetches a reserved word, with no line requesting and the core not idle, does only what the
sequencing of every step does: PPC, the fetch, PC and the loop check (R87; log 9). A device at PC has
seen the fetch (log 3). STACK_POLICY is at its default wrap (log 5). -/
def Obligations.ReservedWordsOnlyAdvance : Prop :=
  ∀ (s : State) (w : OpWord), reservedWord w → (∀ n, ¬ Requests s n) → s.idle = false → pmRead s s.pc = w →
    step s = .next (loopCheck (portPm s.pc (s.setPpc s.pc)))

/-- A push stores the value in the cell at the pointer, keeps every other cell, and counts the pointer up
modulo the depth; the empty bit of that stack in SSTAT follows the new pointer, its wrapped bit is set
by the push at depth - 1 and sticky, the other bits stay; a loop push also makes LOOP_END and LOOP_TERM
the new entry; nothing else changes (R30 to R36, the push side). -/
def Obligations.StackPushes : Prop :=
  ∀ s : State,
    (∀ v : Addr, let t := pushPc v s;
      t = { s with pcStk := t.pcStk, sstat := t.sstat } ∧ Pushed s.pcStk t.pcStk v ∧ topPc t = v ∧
      StatusFollows 0 t.pcStk.sp.toNat (s.pcStk.sp == 15) s.sstat t.sstat) ∧
    (∀ (e : Addr) (c : BitVec 4), let t := pushLoop e c s;
      t = { s with loopStk := t.loopStk, sstat := t.sstat, loopEnd := some e, loopTerm := c } ∧
      Pushed s.loopStk t.loopStk (cat 0#14 (cat e c)) ∧
      StatusFollows 6 t.loopStk.sp.toNat (s.loopStk.sp == 3) s.sstat t.sstat) ∧
    (let t := pushCntr s;
      t = { s with cntrStk := t.cntrStk, sstat := t.sstat } ∧ Pushed s.cntrStk t.cntrStk s.cntr ∧
      StatusFollows 2 t.cntrStk.sp.toNat (s.cntrStk.sp == 3) s.sstat t.sstat) ∧
    let t := pushSts s;
    t = { s with stsStk := t.stsStk, sstat := t.sstat } ∧
    Pushed s.stsStk t.stsStk { astat := s.astat, mstat := s.mstat, imask := s.imask } ∧
    StatusFollows 4 t.stsStk.sp.toNat (s.stsStk.sp == 3) s.sstat t.sstat

/-- A pop counts the pointer down modulo the depth, keeps every cell and gives the cell it uncovers: into
CNTR for the counter stack, into ASTAT, MSTAT and IMASK for the status stack; a loop pop leaves LOOP_END
and LOOP_TERM as the new top entry, or NONE and 0 with the pointer at 0; SSTAT follows, its wrapped bit
set by a pop at pointer 0; nothing else changes (R30 to R36, the pop side). -/
def Obligations.StackPops : Prop :=
  ∀ s : State,
    (let t := popPc s;
      t = { s with pcStk := t.pcStk, sstat := t.sstat } ∧ Popped s.pcStk t.pcStk (topPc s) ∧
      StatusFollows 0 t.pcStk.sp.toNat (s.pcStk.sp == 0) s.sstat t.sstat) ∧
    (let t := popLoop s;
      t = { s with loopStk := t.loopStk, sstat := t.sstat, loopEnd := t.loopEnd, loopTerm := t.loopTerm } ∧
      Popped s.loopStk t.loopStk s.loopStk.top ∧
      StatusFollows 6 t.loopStk.sp.toNat (s.loopStk.sp == 0) s.sstat t.sstat ∧
      (t.loopStk.sp = 0 → t.loopEnd = none ∧ t.loopTerm = 0) ∧
      ∀ i : Fin 4, t.loopStk.sp.toNat = i.val + 1 →
        t.loopEnd = some (t.loopStk.cells[i].extractLsb' 4 14) ∧
        t.loopTerm = t.loopStk.cells[i].extractLsb' 0 4) ∧
    (let t := popCntr s;
      t = { s with cntrStk := t.cntrStk, sstat := t.sstat, cntr := t.cntr } ∧
      Popped s.cntrStk t.cntrStk t.cntr ∧
      StatusFollows 2 t.cntrStk.sp.toNat (s.cntrStk.sp == 0) s.sstat t.sstat) ∧
    let t := popSts s;
    t = { s with stsStk := t.stsStk, sstat := t.sstat, astat := t.astat, mstat := t.mstat, imask := t.imask } ∧
    Popped s.stsStk t.stsStk { astat := t.astat, mstat := t.mstat, imask := t.imask } ∧
    StatusFollows 4 t.stsStk.sp.toNat (s.stsStk.sp == 0) s.sstat t.sstat

/-- Taking line n clears its latch, pushes PC on the PC stack and ASTAT, MSTAT, IMASK on the status stack,
makes PC the vector, clears IDLE, and masks lines n and below with NEST set, line n alone without it;
SSTAT follows the two pushes; the host has one acknowledge of line n (R310; log 6); nothing else changes
(R307, R308). That the vector is n and that line n alone is masked without NEST are the defaults of
VECTOR and NEST_OFF_POLICY (log 4, DESIGN CHOICE). -/
def Obligations.InterruptEntry : Prop :=
  ∀ (n : Fin 4) (s : State), let t := enter n s;
    t = { s with irqLatch := t.irqLatch, pcStk := t.pcStk, stsStk := t.stsStk, sstat := t.sstat,
                 pc := BitVec.ofNat 14 n.val, idle := false, imask := t.imask,
                 events := .irqAck n :: s.events } ∧
    (∀ k < 4, t.irqLatch.getLsbD k = (s.irqLatch.getLsbD k && k != n.val)) ∧
    Pushed s.pcStk t.pcStk s.pc ∧
    Pushed s.stsStk t.stsStk { astat := s.astat, mstat := s.mstat, imask := s.imask } ∧
    (∀ k < 4, t.imask.getLsbD k =
      (s.imask.getLsbD k && if s.icntl.getLsbD 4 then decide (n.val < k) else k != n.val)) ∧
    ∀ k < 8, t.sstat.getLsbD k =
      if k = 0 then decide (s.pcStk.sp = 15)
      else if k = 1 then s.sstat.getLsbD 1 || decide (s.pcStk.sp = 15)
      else if k = 4 then decide (s.stsStk.sp = 3)
      else if k = 5 then s.sstat.getLsbD 5 || decide (s.stsStk.sp = 3)
      else s.sstat.getLsbD k

/-- A line requests when it is active by its mode and enabled. The pass takes the requesting line above
which none requests (PRIORITY is at its default, log 4), and with no line requesting no state changes
(R306, R304). -/
def Obligations.ArbitrationTakesHighest : Prop :=
  ∀ s : State,
    (∀ n : Fin 4, Requests s n → (∀ m : Fin 4, n < m → ¬ Requests s m) → arbitrate s = enter n s) ∧
    ((∀ n : Fin 4, ¬ Requests s n) → arbitrate s = s)

/-- Right after any line is taken, an unconditional RTI answers the state before the entry in everything but
the line's latch, IDLE (clear), the two stack cells written, SSTAT, and the acknowledge the host has:
PC, ASTAT, MSTAT, IMASK and both stack pointers are back, also when a stack wrapped (R311). -/
def Obligations.ReturnUndoesEntry : Prop :=
  ∀ (n : Fin 4) (s : State), ∃ t, exec (.rti .always) (enter n s) = .next t ∧
    t = { s with irqLatch := (enter n s).irqLatch, idle := false,
                 pcStk := { cells := (enter n s).pcStk.cells, sp := s.pcStk.sp },
                 stsStk := { cells := (enter n s).stsStk.cells, sp := s.stsStk.sp }, sstat := t.sstat,
                 events := .irqAck n :: s.events }

/-- With NEST set, the pass that comes right after the entry of line n can take only a higher line; without
it, only another line (the default policy, log 4) (R308, R313). An entry made by the pass of a step is
followed in that step by one instruction before the next pass (log 26). -/
def Obligations.NestingMasks : Prop :=
  ∀ (n m : Fin 4) (s : State), arbitrate (enter n s) = enter m (enter n s) →
    Requests (enter n s) m → m ≠ n ∧ (s.icntl.getLsbD 4 = true → n < m)

/-- The host sets a line: the level is recorded; the latch is set when a clear line in edge mode is
asserted; an assertion runs one arbitration pass; nothing else changes (R303). -/
def Obligations.LineInput : Prop :=
  ∀ (n : Fin 4) (asserted : Bool) (s : State), ∃ u,
    setIrqLine n asserted s = (if asserted then arbitrate u else u) ∧
    u = { s with irqLevel := u.irqLevel, irqLatch := u.irqLatch } ∧
    ∀ k < 4,
      u.irqLevel.getLsbD k = (if k = n.val then asserted else s.irqLevel.getLsbD k) ∧
      u.irqLatch.getLsbD k = (s.irqLatch.getLsbD k ||
        (k == n.val && asserted && !s.irqLevel.getLsbD k && s.icntl.getLsbD k))

/-- An idle core with no line requesting stays in the same state for any number of steps; with a line
requesting, the next step runs the word at that line's vector with IDLE clear and the old PC on the PC
stack (R255, R71). That the vector of line n is n and that the highest-numbered line wins are the
defaults of VECTOR and PRIORITY (log 4, DESIGN CHOICE); a device at the vector has seen the fetch (log
3). STACK_POLICY is at its default wrap (log 5). -/
def Obligations.IdleHoldsUntilTaken : Prop :=
  ∀ s : State, s.idle = true →
    ((∀ n, ¬ Requests s n) → ∀ k : Nat, Host.Core.run Sys2Proof.core k s = .next s) ∧
    ∀ n : Fin 4, Requests s n → (∀ m : Fin 4, n < m → ¬ Requests s m) →
      let a : Addr := BitVec.ofNat 14 n.val
      step s = exec (decodeWord (pmRead (enter n s) a)) (loopCheck (portPm a ((enter n s).setPpc a))) ∧
      (enter n s).idle = false ∧ topPc (enter n s) = s.pc

/-- From every sound state, a step leads to a sound state: SE, SB and M hold sign-extended values in both
banks and all generators, MASK is MaskTable(L), BASE has no bit inside the mask, each empty bit of SSTAT
tells whether its pointer is 0, LOOP_END and LOOP_TERM are NONE and 0 or the top loop entry (log 11),
the upper bits of loop cells are 0, and both memories are in canonical form with only bytes that exist
(log 1, log 2). -/
def Obligations.StepKeepsSound : Prop :=
  ∀ s t : State, s.Sound → step s = .next t → t.Sound

/-- The state right after reset meets every invariant of StepKeepsSound. -/
def Obligations.ResetSound : Prop :=
  State.reset.Sound

/-- From every sound state, setting a line, a reset, a host write of a program or data word and a new map of
devices (log 3) lead to a sound state, and so do the core's writes at the port; a restored context that
is sound gives a sound state (R303, R340, R350, R51, R52, R68). A snoop write of a loop-stack cell, of
any value, keeps the upper 14 bits of every loop cell 0 (R30). -/
def Obligations.HostKeepsSound : Prop :=
  ∀ s : State, s.Sound →
    (∀ (n : Fin 4) (b : Bool), (setIrqLine n b s).Sound) ∧ (hostReset s).Sound ∧
    (∀ (a : Addr) (w : OpWord), (pmWrite a w s).Sound ∧ (hostEffect (.writePm a w) s).Sound) ∧
    (∀ (a : Addr) (v : Word), (dmWrite a v s).Sound ∧ (hostEffect (.writeDm a v) s).Sound) ∧
    (∀ pm dm : List Addr, (hostEffect (.mapDevices pm dm) s).Sound) ∧
    (∀ (k : Fin 4) (v : BitVec 32), (setRegister (.loopStackAt k) v s).LoopCellsSound) ∧
    ∀ u : State, u.Sound → (setContext (getContext u) s).Sound

/-- A wrapped bit of SSTAT that is set stays set through every step, interrupt entries included (R23, R36).
What STACK_POLICY answers for a step from s to t: under its default wrap t itself; under refuse the
refusal stackWrapped exactly when a wrapped bit is set in t that is clear in s (R6, U3; log 5). -/
def Obligations.WrappedBitsSticky : Prop :=
  (∀ (s t : State) (k : Nat), k ∈ [1, 3, 5, 7] → s.sstat.getLsbD k = true → step s = .next t →
    t.sstat.getLsbD k = true) ∧
  ∀ s t : State, let next : Result := .next t; underStackPolicy .wrap s next = next ∧
    underStackPolicy .refuse s next =
      if [1, 3, 5, 7].any fun k => !s.sstat.getLsbD k && t.sstat.getLsbD k then .refused .stackWrapped
      else next

/-- Whatever the bank that MSTAT[0] does not select holds, every instruction does the same and leaves that
bank as it was: replacing its contents before the instruction or after it gives the same state, also for
an instruction that switches the bank (R11). -/
def Obligations.InactiveBankInvisible : Prop :=
  ∀ (i : Instr) (b : Bank) (s t : State), let upper := s.mstat.getLsbD 0
    exec i s = .next t → exec i (putInactiveBank upper b s) = .next (putInactiveBank upper b t)

/-- Replacing the line levels, the latches, FLAG_IN, FLAG_OUT, IRQ_EXTRA_CYCLES and PPC before an
instruction or after it gives the same state: no instruction reads or writes any of them (R28, R29, R90,
R18). -/
def Obligations.OutsideStateInvisible : Prop :=
  ∀ (i : Instr) (level latch : BitVec 4) (pinIn pinOut : Bool) (extra : Nat) (p : Addr) (s t : State),
    exec i s = .next t →
    exec i (putOutside level latch pinIn pinOut extra p s) =
      .next (putOutside level latch pinIn pinOut extra p t)

/-- An instruction that is none of the six store forms leaves every byte of both memories as it was; the two
program-memory store forms leave data memory, and the four data-memory store forms leave program memory
(R55). No instruction changes where the host maps devices; what the host has seen only grows, and stays
as it was through an instruction that neither reads nor writes memory, and where no device is mapped
(R58, R68; log 3). -/
def Obligations.OnlyStoresChangeMemory : Prop :=
  ∀ (i : Instr) (s t : State), exec i s = .next t →
    (writesPm i = false → t.pm = s.pm) ∧ (writesDm i = false → t.dm = s.dm) ∧
    t.pmDevices = s.pmDevices ∧ t.dmDevices = s.dmDevices ∧ s.events <:+ t.events ∧
    (writesPm i = false → writesDm i = false → readsPm i = false → readsDm i = false →
      t.events = s.events) ∧
    (s.pmDevices = [] → s.dmDevices = [] → t.events = s.events)

/-- After a write of a program or data word where no device is mapped, that address reads the word written
and every other address reads what it read before, over all 16384 addresses of each space and both
spaces, and a read there changes nothing (R51, R52, R62). Where the host maps a device, a read gives a
free value, a new one for each event, and nothing is stored; the device has seen the access, and nothing
else changes (R58, R68; log 3). The layout in bytes is log 2. -/
def Obligations.WordReadAfterWrite : Prop :=
  ∀ (s : State) (a b : Addr) (w : OpWord) (v : Word),
    (a ∉ s.pmDevices →
      pmRead (pmWrite a w s) b = (if b = a then w else pmRead s b) ∧ dmRead (pmWrite a w s) b = dmRead s b ∧
      afterPmRead a s = s) ∧
    (a ∉ s.dmDevices →
      dmRead (dmWrite a v s) b = (if b = a then v else dmRead s b) ∧ pmRead (dmWrite a v s) b = pmRead s b ∧
      afterDmRead a s = s) ∧
    (a ∈ s.pmDevices →
      pmWrite a w s = { s with events := .pmWrite a w :: s.events } ∧
      pmRead s a = Config.deviceAnswer s.events.length ∧
      afterPmRead a s = { s with events := .pmRead a :: s.events }) ∧
    (a ∈ s.dmDevices →
      dmWrite a v s = { s with events := .dmWrite a v :: s.events } ∧
      dmRead s a = (Config.deviceAnswer s.events.length).extractLsb' 0 16 ∧
      afterDmRead a s = { s with events := .dmRead a :: s.events })

/-- Two memories in canonical form that read the same at every address are the same list, and writing back
what is there changes nothing: the form the model chose (log 1) holds no hidden state. -/
def Obligations.CanonicalMemoryUnique : Prop :=
  (∀ m m' : Memory, m.wf = true → m'.wf = true → (∀ a, m.read a = m'.read a) → m = m') ∧
  ∀ (m : Memory) (a : Nat), m.wf = true → m.write a (m.read a) = m

/-- After reset every register of both banks, every generator, the sequencer, the status and control
registers, the lines, the pins and the four stacks hold the values of the spec's table (R38, R341). That
PC and PPC are 0x0004 is the default of RESET_PC (log 4, DESIGN CHOICE). -/
def Obligations.ResetValues : Prop :=
  let s := State.reset;
  (∀ b ∈ [s.bank0, s.bank1],
    [b.ax0, b.ax1, b.ay0, b.ay1, b.ar, b.af, b.mx0, b.mx1, b.my0, b.my1, b.mf, b.si, b.se, b.sb]
      = List.replicate 14 0 ∧ b.mr = 0 ∧ b.sr = 0) ∧
  (∀ n : Fin 8, s.gen n = { i := 0, m := 0, l := 0, mask := 0x3FFF, base := 0 }) ∧
  s.pc = 0x0004 ∧ s.ppc = 0x0004 ∧ s.loopEnd = none ∧ s.loopTerm = 0 ∧ s.cntr = 0 ∧ s.astat = 0x00 ∧
  s.mstat = 0x0 ∧ s.sstat = 0x55 ∧ s.imask = 0x0 ∧ s.icntl = 0x00 ∧ s.px = 0x00 ∧
  s.irqLevel = 0 ∧ s.irqLatch = 0 ∧ s.idle = false ∧ s.flagIn = false ∧ s.flagOut = false ∧
  s.irqExtraCycles = 0 ∧
  s.pcStk.sp = 0 ∧ s.loopStk.sp = 0 ∧ s.cntrStk.sp = 0 ∧ s.stsStk.sp = 0 ∧
  (∀ i : Fin 16, s.pcStk.cells[i] = 0) ∧ (∀ i : Fin 4, s.loopStk.cells[i] = 0) ∧
  (∀ i : Fin 4, s.cntrStk.cells[i] = 0) ∧ ∀ i : Fin 4, s.stsStk.cells[i] = { astat := 0, mstat := 0, imask := 0 }

/-- A host reset makes the whole core the reset state and leaves both memories, the map of devices and what
the host has seen; the pass of the next step then takes nothing and the word at 0x0004 is fetched.
Restoring a context replaces the whole core and runs one pass; restoring the saved one with no line
requesting changes nothing (R340, R344, R350). That the fetch is at 0x0004 is the default of RESET_PC
(log 4, DESIGN CHOICE). -/
def Obligations.ResetAndContext : Prop :=
  ∀ s : State,
    hostReset s = { State.reset with pm := s.pm, dm := s.dm, pmDevices := s.pmDevices,
                                     dmDevices := s.dmDevices, events := s.events } ∧
    arbitrate (hostReset s) = hostReset s ∧ fetch (hostReset s) = pmRead s 0x0004 ∧
    (∀ u : State, setContext (getContext u) s =
      arbitrate { u with pm := s.pm, dm := s.dm, pmDevices := s.pmDevices, dmDevices := s.dmDevices,
                         events := s.events }) ∧
    ((∀ n, ¬ Requests s n) → setContext (getContext s) s = s)

/-- Reads: the registers of the tables; PC, PPC, CNTR, AF, MF, I, M, L, MASK, BASE, the four stack pointers,
the pins, IDLE, LOOP_TERM and LOOP_END, while NONE a free value (log 12); an IRQ-state id reads the
line's level, a latch id its latch; genPC and genSP read PC and the PC stack pointer (log 12); stack
contents at depth k are the cell at SP - 1 - k modulo the depth, a status entry as ASTAT, MSTAT, IMASK
from the top (R352, R37, R213, R215). Writes: a register with a group slot has the side effects of the
register tables, except that a write of CNTR does not push; AF, MF and PC are stored; an IRQ-state id
sets the line (by bit 0, log 14). The model's choice for the writes R352 leaves unsaid (log 13, DESIGN
CHOICE): MASK and BASE ignore them; a stack pointer also sets its empty bit; a stack cell takes the bits
it has, 18 for the loop stack (R30); PPC, genPC, LOOP_END, LOOP_TERM, a latch, a pin and IDLE take the
low bits that fit. Different names are different integers; an integer of no name reads 0 and its write
does nothing (R352; log 12). -/
def Obligations.SnoopWrites : Prop :=
  ∀ (v : BitVec 32) (s : State), let w : Word := v.extractLsb' 0 16; let val := BitVec.ofNat 32;
    (∀ p ∈ [(SnoopId.ax0, 0), (.ax1, 1), (.mx0, 2), (.mx1, 3), (.ay0, 4), (.ay1, 5), (.my0, 6), (.my1, 7),
        (.si, 8), (.se, 9), (.ar, 10), (.mr0, 11), (.mr1, 12), (.mr2, 13), (.sr0, 14), (.sr1, 15)],
      setRegister p.1 v s = tableWrite .data (BitVec.ofNat 4 p.2) w s ∧
      getRegister p.1 s = val (tableRead s .data (BitVec.ofNat 4 p.2)).toNat) ∧
    (∀ n : Fin 8, setRegister (.i n) v s = tableWriteI n.val w s ∧
      setRegister (.m n) v s = tableWriteM n.val w s ∧ setRegister (.l n) v s = tableWriteL n.val w s ∧
      getRegister (.i n) s = val (s.gen n).i.toNat ∧ getRegister (.m n) s = val (s.gen n).m.toNat ∧
      getRegister (.l n) s = val (s.gen n).l.toNat) ∧
    (∀ p ∈ [(SnoopId.astat, 0), (.mstat, 1), (.sstat, 2), (.imask, 3), (.icntl, 4), (.sb, 6), (.px, 7)],
      setRegister p.1 v s = tableWrite .ctl (BitVec.ofNat 4 p.2) w s ∧
      getRegister p.1 s = val (tableRead s .ctl (BitVec.ofNat 4 p.2)).toNat) ∧
    (∀ p ∈ [(SnoopId.pc, s.pc.toNat), (.ppc, s.ppc.toNat), (.cntr, s.cntr.toNat), (.af, s.bank.af.toNat),
        (.mf, s.bank.mf.toNat), (.pcSp, s.pcStk.sp.toNat), (.loopSp, s.loopStk.sp.toNat),
        (.cntrSp, s.cntrStk.sp.toNat), (.stsSp, s.stsStk.sp.toNat), (.flagIn, s.flagIn.toNat),
        (.flagOut, s.flagOut.toNat), (.idle, s.idle.toNat), (.loopTerm, s.loopTerm.toNat),
        (.genPc, s.pc.toNat), (.genSp, s.pcStk.sp.toNat)],
      getRegister p.1 s = val p.2) ∧
    getRegister .loopEnd s = (match s.loopEnd with
      | some e => val e.toNat
      | none => Config.snoopOfNone) ∧
    (∀ n : Fin 8, getRegister (.mask n) s = val (s.gen n).mask.toNat ∧ setRegister (.mask n) v s = s ∧
      getRegister (.base n) s = val (s.gen n).base.toNat ∧ setRegister (.base n) v s = s) ∧
    (∀ n : Fin 4, getRegister (.irqLatch n) s = val (s.irqLatch.getLsbD n.val).toNat ∧
      ∃ l, setRegister (.irqLatch n) v s = { s with irqLatch := l } ∧
        ∀ k < 4, l.getLsbD k = if k = n.val then v.getLsbD 0 else s.irqLatch.getLsbD k) ∧
    (let sp := v.extractLsb' 0 4;
      ∀ id ∈ [SnoopId.pcSp, .genSp], setRegister id v s =
        { s with pcStk := { s.pcStk with sp := sp }, sstat := setFlag s.sstat 0 (sp == 0) }) ∧
    (let sp := v.extractLsb' 0 2;
      setRegister .cntrSp v s =
        { s with cntrStk := { s.cntrStk with sp := sp }, sstat := setFlag s.sstat 2 (sp == 0) } ∧
      setRegister .stsSp v s =
        { s with stsStk := { s.stsStk with sp := sp }, sstat := setFlag s.sstat 4 (sp == 0) } ∧
      setRegister .loopSp v s =
        { s with loopStk := { s.loopStk with sp := sp }, sstat := setFlag s.sstat 6 (sp == 0) }) ∧
    setRegister .ppc v s = { s with ppc := v.extractLsb' 0 14 } ∧
    setRegister .genPc v s = { s with pc := v.extractLsb' 0 14 } ∧
    setRegister .loopEnd v s = { s with loopEnd := some (v.extractLsb' 0 14) } ∧
    setRegister .loopTerm v s = { s with loopTerm := v.extractLsb' 0 4 } ∧
    setRegister .flagIn v s = { s with flagIn := v.getLsbD 0 } ∧
    setRegister .flagOut v s = { s with flagOut := v.getLsbD 0 } ∧
    setRegister .idle v s = { s with idle := v.getLsbD 0 } ∧
    setRegister .cntr v s = s.setCntr w ∧ setRegister .pc v s = s.setPc (v.extractLsb' 0 14) ∧
    setRegister .af v s = s.setBank { s.bank with af := w } ∧
    setRegister .mf v s = s.setBank { s.bank with mf := w } ∧
    (∀ n : Fin 4, setRegister (.irqState n) v s = setIrqLine n (v.getLsbD 0) s ∧
      getRegister (.irqState n) s = val (s.irqLevel.getLsbD n.val).toNat) ∧
    (∀ k j : Fin 16, (j.val + 1 + k.val) % 16 = s.pcStk.sp.toNat →
      getRegister (.pcStackAt k) s = val s.pcStk.cells[j].toNat ∧
      setRegister (.pcStackAt k) v s =
        { s with pcStk := { s.pcStk with cells := s.pcStk.cells.set j.val (v.extractLsb' 0 14) } }) ∧
    (∀ k j : Fin 4, (j.val + 1 + k.val) % 4 = s.loopStk.sp.toNat →
      getRegister (.loopStackAt k) s = s.loopStk.cells[j] ∧
      setRegister (.loopStackAt k) v s =
        { s with loopStk := { s.loopStk with
                   cells := s.loopStk.cells.set j.val (val (v.extractLsb' 0 18).toNat) } }) ∧
    (∀ k j : Fin 4, (j.val + 1 + k.val) % 4 = s.cntrStk.sp.toNat →
      getRegister (.cntrStackAt k) s = val s.cntrStk.cells[j].toNat ∧
      setRegister (.cntrStackAt k) v s =
        { s with cntrStk := { s.cntrStk with cells := s.cntrStk.cells.set j.val w } }) ∧
    (∀ k j : Fin 4, (j.val + 1 + k.val) % 4 = s.stsStk.sp.toNat →
      let c := s.stsStk.cells[j]
      getRegister (.stsStackAt k) s = val (256 * c.astat.toNat + 16 * c.mstat.toNat + c.imask.toNat) ∧
      setRegister (.stsStackAt k) v s =
        { s with stsStk := { s.stsStk with
                   cells := s.stsStk.cells.set j.val
                     { astat := v.extractLsb' 8 8, mstat := v.extractLsb' 4 4, imask := v.extractLsb' 0 4 } } }) ∧
    getRegister .outOfRange s = 0 ∧ setRegister .outOfRange v s = s ∧
    (∀ a : SnoopId, a ≠ .outOfRange →
      getRegisterById (Config.snoopInt a) s = getRegister a s ∧
      setRegisterById (Config.snoopInt a) v s = setRegister a v s ∧
      ∀ b : SnoopId, b ≠ .outOfRange → Config.snoopInt a = Config.snoopInt b → a = b) ∧
    ∀ n : Int, (∀ a : SnoopId, a ≠ .outOfRange → Config.snoopInt a ≠ n) →
      getRegisterById n s = 0 ∧ setRegisterById n v s = s
end

