-- ==== Sys2Proof/Laws/Bits.lean ====
section
/-! SUPPORT. Bits of a concatenation, of a field of one, and of a value with one bit changed. -/

namespace Sys2Proof

/-! `cat` -/

@[simp] theorem extract_cat_hi {v w lo len : Nat} (x : BitVec v) (y : BitVec w) (h : w ≤ lo) :
    (cat x y).extractLsb' lo len = x.extractLsb' (lo - w) len :=
  BitVec.extractLsb'_append_eq_of_le h

@[simp] theorem extract_cat_lo {v w lo len : Nat} (x : BitVec v) (y : BitVec w) (h : lo + len ≤ w) :
    (cat x y).extractLsb' lo len = y.extractLsb' lo len :=
  BitVec.extractLsb'_append_eq_of_add_le h

@[simp] theorem getLsbD_cat {v w i : Nat} (x : BitVec v) (y : BitVec w) :
    (cat x y).getLsbD i = if i < w then y.getLsbD i else x.getLsbD (i - w) := by
  simp [cat, BitVec.getLsbD_append]

@[simp] theorem getElem_cat {v w i : Nat} (x : BitVec v) (y : BitVec w) (h : i < v + w) :
    (cat x y)[i] = if i < w then y.getLsbD i else x.getLsbD (i - w) := by
  rw [← BitVec.getLsbD_eq_getElem, getLsbD_cat]

theorem toNat_cat {v w : Nat} (x : BitVec v) (y : BitVec w) :
    (cat x y).toNat = x.toNat * 2 ^ w + y.toNat := by
  rw [cat, BitVec.toNat_append, ← Nat.shiftLeft_add_eq_or_of_lt y.isLt, Nat.shiftLeft_eq]

/-- A value is the concatenation of its two parts. -/
theorem cat_extract {v w : Nat} (x : BitVec (v + w)) :
    cat (x.extractLsb' w v) (x.extractLsb' 0 w) = x := by
  apply BitVec.eq_of_getLsbD_eq
  intro i hi
  by_cases h : i < w
  · simp [h]
  · have hv : i - w < v := by omega
    have hw : w + (i - w) = i := by omega
    simp [h, hv, hw]

namespace Machine

/-! `putBit` -/

theorem getLsbD_putBit {w : Nat} (v : BitVec w) (k j : Nat) (b : Bool) :
    (putBit v k b).getLsbD j = if j = k ∧ j < w then b else v.getLsbD j := by
  by_cases h : j < w
  · by_cases hk : j = k
    · subst hk
      simp [putBit, h]
    · have hk' : ¬ k = j := fun e => hk e.symm
      by_cases hlt : j < k
      · simp [putBit, h, hk, hlt]
      · have : j - k ≠ 0 := by omega
        simp [putBit, h, hk, hlt, this]
  · simp [putBit, h, BitVec.getLsbD_of_ge _ _ (Nat.le_of_not_lt h)]

end Machine
end Sys2Proof
end

