-- ==== Sys2Proof/Laws/Encoding.lean ====
section
/-! SUPPORT. The field codes and the generator numbers are read back as they are written. -/

namespace Sys2Proof

@[simp] theorem Cond.ofCode_code (c : Cond) : Cond.ofCode c.code = c := by cases c <;> rfl
@[simp] theorem Cond.code_ofCode (b : BitVec 4) : (Cond.ofCode b).code = b := by revert b; decide

@[simp] theorem Xop.ofCode_code (c : Xop) : Xop.ofCode c.code = c := by cases c <;> rfl
@[simp] theorem Xop.code_ofCode (b : BitVec 3) : (Xop.ofCode b).code = b := by revert b; decide

@[simp] theorem Yop.ofCode_code (c : Yop) : Yop.ofCode c.code = c := by cases c <;> rfl
@[simp] theorem Yop.code_ofCode (b : BitVec 2) : (Yop.ofCode b).code = b := by revert b; decide

@[simp] theorem Dreg.ofCode_code (c : Dreg) : Dreg.ofCode c.code = c := by cases c <;> rfl
@[simp] theorem Dreg.code_ofCode (b : BitVec 4) : (Dreg.ofCode b).code = b := by revert b; decide

@[simp] theorem RegGroup.ofCode_code (c : RegGroup) : RegGroup.ofCode c.code = c := by cases c <;> rfl
@[simp] theorem RegGroup.code_ofCode (b : BitVec 2) : (RegGroup.ofCode b).code = b := by revert b; decide

@[simp] theorem DualX.ofCode_code (c : DualX) : DualX.ofCode c.code = c := by cases c <;> rfl
@[simp] theorem DualX.code_ofCode (b : BitVec 2) : (DualX.ofCode b).code = b := by revert b; decide

@[simp] theorem DualY.ofCode_code (c : DualY) : DualY.ofCode c.code = c := by cases c <;> rfl
@[simp] theorem DualY.code_ofCode (b : BitVec 2) : (DualY.ofCode b).code = b := by revert b; decide

@[simp] theorem MacFn.ofCode_code (c : MacFn) : MacFn.ofCode c.code = c := by cases c <;> rfl
@[simp] theorem MacFn.code_ofCode (b : BitVec 4) : (MacFn.ofCode b).code = b := by revert b; decide

@[simp] theorem AluFn.ofCode_code (c : AluFn) : AluFn.ofCode c.code = c := by cases c <;> rfl
@[simp] theorem AluFn.code_ofCode (b : BitVec 4) : (AluFn.ofCode b).code = b := by revert b; decide

@[simp] theorem ShiftFn.ofCode_code (c : ShiftFn) : ShiftFn.ofCode c.code = c := by cases c <;> rfl
@[simp] theorem ShiftFn.code_ofCode (b : BitVec 4) : (ShiftFn.ofCode b).code = b := by revert b; decide

@[simp] theorem Amf.ofCode_code (c : Amf) : Amf.ofCode c.code = c := by
  cases c with
  | mac f => cases f <;> rfl
  | alu f => cases f <;> rfl
@[simp] theorem Amf.code_ofCode (b : BitVec 5) : (Amf.ofCode b).code = b := by revert b; decide

/-! Generator numbers (R78) -/

@[simp] theorem genOf_groupBit_indexField (n : Fin 8) : genOf (groupBit n) (indexField n) = n := by
  revert n; decide

@[simp] theorem groupBit_genOf (g : BitVec 1) (i : BitVec 2) : groupBit (genOf g i) = g := by
  revert g i; decide

@[simp] theorem indexField_genOf (g : BitVec 1) (i : BitVec 2) : indexField (genOf g i) = i := by
  revert g i; decide

/-- A modify number of the generator's group is read back through the generator's group bit. -/
theorem genOf_sameGroup {n m : Fin 8} (h : sameGroup n m = true) :
    genOf (groupBit n) (indexField m) = m := by
  revert n m; decide

theorem genOf_inDag1 {n : Fin 8} (h : inDag1 n = true) : genOf 0#1 (indexField n) = n := by
  revert n; decide

theorem genOf_inDag2 {n : Fin 8} (h : inDag2 n = true) : genOf 1#1 (indexField n) = n := by
  revert n; decide

@[simp] theorem sameGroup_genOf (g : BitVec 1) (i j : BitVec 2) :
    sameGroup (genOf g i) (genOf g j) = true := by
  revert g i j; decide

@[simp] theorem inDag1_genOf (i : BitVec 2) : inDag1 (genOf 0#1 i) = true := by revert i; decide

@[simp] theorem inDag2_genOf (i : BitVec 2) : inDag2 (genOf 1#1 i) = true := by revert i; decide

/-! Words and bytes -/

@[simp] theorem wordOfBytes_bytes (w : OpWord) :
    wordOfBytes (w.extractLsb' 0 8) (w.extractLsb' 8 8) (w.extractLsb' 16 8) = w := by
  apply BitVec.eq_of_getLsbD_eq
  intro i hi
  simp only [wordOfBytes, getLsbD_cat, BitVec.getLsbD_extractLsb']
  split
  · split
    · simp [*]
    · have h1 : i - 8 < 8 := by omega
      have h2 : 8 + (i - 8) = i := by omega
      simp [h1, h2]
  · have h1 : i - (8 + 8) < 8 := by omega
    have h2 : 16 + (i - (8 + 8)) = i := by omega
    simp [h1, h2]

@[simp] theorem decodeBytes_wordBytes (w : OpWord) (rest : List Byte) :
    decodeBytes (wordBytes w ++ rest) = .ok (decodeWord w, rest) := by
  simp [wordBytes, decodeBytes]

end Sys2Proof
end

