-- ==== Sys2Proof/Laws/State.lean ====
section
/-! SUPPORT. One lemma per field per named update of the state, each tagged for `simp`, so that no proof
unfolds a record update. -/

namespace Sys2Proof.Machine

variable (s : State)

/-! `State.setGens` -/

@[simp] theorem State.setGens_bank0 (g : Vector Gen 8) : (s.setGens g).bank0 = s.bank0 := rfl
@[simp] theorem State.setGens_bank1 (g : Vector Gen 8) : (s.setGens g).bank1 = s.bank1 := rfl
@[simp] theorem State.setGens_gens (g : Vector Gen 8) : (s.setGens g).gens = g := rfl
@[simp] theorem State.setGens_pc (g : Vector Gen 8) : (s.setGens g).pc = s.pc := rfl
@[simp] theorem State.setGens_ppc (g : Vector Gen 8) : (s.setGens g).ppc = s.ppc := rfl
@[simp] theorem State.setGens_loopEnd (g : Vector Gen 8) : (s.setGens g).loopEnd = s.loopEnd := rfl
@[simp] theorem State.setGens_loopTerm (g : Vector Gen 8) : (s.setGens g).loopTerm = s.loopTerm := rfl
@[simp] theorem State.setGens_cntr (g : Vector Gen 8) : (s.setGens g).cntr = s.cntr := rfl
@[simp] theorem State.setGens_astat (g : Vector Gen 8) : (s.setGens g).astat = s.astat := rfl
@[simp] theorem State.setGens_mstat (g : Vector Gen 8) : (s.setGens g).mstat = s.mstat := rfl
@[simp] theorem State.setGens_sstat (g : Vector Gen 8) : (s.setGens g).sstat = s.sstat := rfl
@[simp] theorem State.setGens_imask (g : Vector Gen 8) : (s.setGens g).imask = s.imask := rfl
@[simp] theorem State.setGens_icntl (g : Vector Gen 8) : (s.setGens g).icntl = s.icntl := rfl
@[simp] theorem State.setGens_px (g : Vector Gen 8) : (s.setGens g).px = s.px := rfl
@[simp] theorem State.setGens_irqLevel (g : Vector Gen 8) : (s.setGens g).irqLevel = s.irqLevel := rfl
@[simp] theorem State.setGens_irqLatch (g : Vector Gen 8) : (s.setGens g).irqLatch = s.irqLatch := rfl
@[simp] theorem State.setGens_idle (g : Vector Gen 8) : (s.setGens g).idle = s.idle := rfl
@[simp] theorem State.setGens_flagIn (g : Vector Gen 8) : (s.setGens g).flagIn = s.flagIn := rfl
@[simp] theorem State.setGens_flagOut (g : Vector Gen 8) : (s.setGens g).flagOut = s.flagOut := rfl
@[simp] theorem State.setGens_irqExtraCycles (g : Vector Gen 8) : (s.setGens g).irqExtraCycles = s.irqExtraCycles := rfl
@[simp] theorem State.setGens_pcStk (g : Vector Gen 8) : (s.setGens g).pcStk = s.pcStk := rfl
@[simp] theorem State.setGens_loopStk (g : Vector Gen 8) : (s.setGens g).loopStk = s.loopStk := rfl
@[simp] theorem State.setGens_cntrStk (g : Vector Gen 8) : (s.setGens g).cntrStk = s.cntrStk := rfl
@[simp] theorem State.setGens_stsStk (g : Vector Gen 8) : (s.setGens g).stsStk = s.stsStk := rfl
@[simp] theorem State.setGens_pm (g : Vector Gen 8) : (s.setGens g).pm = s.pm := rfl
@[simp] theorem State.setGens_dm (g : Vector Gen 8) : (s.setGens g).dm = s.dm := rfl
@[simp] theorem State.setGens_pmDevices (g : Vector Gen 8) : (s.setGens g).pmDevices = s.pmDevices := rfl
@[simp] theorem State.setGens_dmDevices (g : Vector Gen 8) : (s.setGens g).dmDevices = s.dmDevices := rfl
@[simp] theorem State.setGens_events (g : Vector Gen 8) : (s.setGens g).events = s.events := rfl
@[simp] theorem State.setGens_bank (g : Vector Gen 8) : (s.setGens g).bank = s.bank := rfl
@[simp] theorem State.setGens_otherBank (g : Vector Gen 8) : (s.setGens g).otherBank = s.otherBank := rfl

/-! `State.setPc` -/

@[simp] theorem State.setPc_bank0 (a : Addr) : (s.setPc a).bank0 = s.bank0 := rfl
@[simp] theorem State.setPc_bank1 (a : Addr) : (s.setPc a).bank1 = s.bank1 := rfl
@[simp] theorem State.setPc_gens (a : Addr) : (s.setPc a).gens = s.gens := rfl
@[simp] theorem State.setPc_pc (a : Addr) : (s.setPc a).pc = a := rfl
@[simp] theorem State.setPc_ppc (a : Addr) : (s.setPc a).ppc = s.ppc := rfl
@[simp] theorem State.setPc_loopEnd (a : Addr) : (s.setPc a).loopEnd = s.loopEnd := rfl
@[simp] theorem State.setPc_loopTerm (a : Addr) : (s.setPc a).loopTerm = s.loopTerm := rfl
@[simp] theorem State.setPc_cntr (a : Addr) : (s.setPc a).cntr = s.cntr := rfl
@[simp] theorem State.setPc_astat (a : Addr) : (s.setPc a).astat = s.astat := rfl
@[simp] theorem State.setPc_mstat (a : Addr) : (s.setPc a).mstat = s.mstat := rfl
@[simp] theorem State.setPc_sstat (a : Addr) : (s.setPc a).sstat = s.sstat := rfl
@[simp] theorem State.setPc_imask (a : Addr) : (s.setPc a).imask = s.imask := rfl
@[simp] theorem State.setPc_icntl (a : Addr) : (s.setPc a).icntl = s.icntl := rfl
@[simp] theorem State.setPc_px (a : Addr) : (s.setPc a).px = s.px := rfl
@[simp] theorem State.setPc_irqLevel (a : Addr) : (s.setPc a).irqLevel = s.irqLevel := rfl
@[simp] theorem State.setPc_irqLatch (a : Addr) : (s.setPc a).irqLatch = s.irqLatch := rfl
@[simp] theorem State.setPc_idle (a : Addr) : (s.setPc a).idle = s.idle := rfl
@[simp] theorem State.setPc_flagIn (a : Addr) : (s.setPc a).flagIn = s.flagIn := rfl
@[simp] theorem State.setPc_flagOut (a : Addr) : (s.setPc a).flagOut = s.flagOut := rfl
@[simp] theorem State.setPc_irqExtraCycles (a : Addr) : (s.setPc a).irqExtraCycles = s.irqExtraCycles := rfl
@[simp] theorem State.setPc_pcStk (a : Addr) : (s.setPc a).pcStk = s.pcStk := rfl
@[simp] theorem State.setPc_loopStk (a : Addr) : (s.setPc a).loopStk = s.loopStk := rfl
@[simp] theorem State.setPc_cntrStk (a : Addr) : (s.setPc a).cntrStk = s.cntrStk := rfl
@[simp] theorem State.setPc_stsStk (a : Addr) : (s.setPc a).stsStk = s.stsStk := rfl
@[simp] theorem State.setPc_pm (a : Addr) : (s.setPc a).pm = s.pm := rfl
@[simp] theorem State.setPc_dm (a : Addr) : (s.setPc a).dm = s.dm := rfl
@[simp] theorem State.setPc_pmDevices (a : Addr) : (s.setPc a).pmDevices = s.pmDevices := rfl
@[simp] theorem State.setPc_dmDevices (a : Addr) : (s.setPc a).dmDevices = s.dmDevices := rfl
@[simp] theorem State.setPc_events (a : Addr) : (s.setPc a).events = s.events := rfl
@[simp] theorem State.setPc_bank (a : Addr) : (s.setPc a).bank = s.bank := rfl
@[simp] theorem State.setPc_otherBank (a : Addr) : (s.setPc a).otherBank = s.otherBank := rfl
@[simp] theorem State.setPc_gen (a : Addr) (n : Fin 8) : (s.setPc a).gen n = s.gen n := rfl

/-! `State.setPpc` -/

@[simp] theorem State.setPpc_bank0 (a : Addr) : (s.setPpc a).bank0 = s.bank0 := rfl
@[simp] theorem State.setPpc_bank1 (a : Addr) : (s.setPpc a).bank1 = s.bank1 := rfl
@[simp] theorem State.setPpc_gens (a : Addr) : (s.setPpc a).gens = s.gens := rfl
@[simp] theorem State.setPpc_pc (a : Addr) : (s.setPpc a).pc = s.pc := rfl
@[simp] theorem State.setPpc_ppc (a : Addr) : (s.setPpc a).ppc = a := rfl
@[simp] theorem State.setPpc_loopEnd (a : Addr) : (s.setPpc a).loopEnd = s.loopEnd := rfl
@[simp] theorem State.setPpc_loopTerm (a : Addr) : (s.setPpc a).loopTerm = s.loopTerm := rfl
@[simp] theorem State.setPpc_cntr (a : Addr) : (s.setPpc a).cntr = s.cntr := rfl
@[simp] theorem State.setPpc_astat (a : Addr) : (s.setPpc a).astat = s.astat := rfl
@[simp] theorem State.setPpc_mstat (a : Addr) : (s.setPpc a).mstat = s.mstat := rfl
@[simp] theorem State.setPpc_sstat (a : Addr) : (s.setPpc a).sstat = s.sstat := rfl
@[simp] theorem State.setPpc_imask (a : Addr) : (s.setPpc a).imask = s.imask := rfl
@[simp] theorem State.setPpc_icntl (a : Addr) : (s.setPpc a).icntl = s.icntl := rfl
@[simp] theorem State.setPpc_px (a : Addr) : (s.setPpc a).px = s.px := rfl
@[simp] theorem State.setPpc_irqLevel (a : Addr) : (s.setPpc a).irqLevel = s.irqLevel := rfl
@[simp] theorem State.setPpc_irqLatch (a : Addr) : (s.setPpc a).irqLatch = s.irqLatch := rfl
@[simp] theorem State.setPpc_idle (a : Addr) : (s.setPpc a).idle = s.idle := rfl
@[simp] theorem State.setPpc_flagIn (a : Addr) : (s.setPpc a).flagIn = s.flagIn := rfl
@[simp] theorem State.setPpc_flagOut (a : Addr) : (s.setPpc a).flagOut = s.flagOut := rfl
@[simp] theorem State.setPpc_irqExtraCycles (a : Addr) : (s.setPpc a).irqExtraCycles = s.irqExtraCycles := rfl
@[simp] theorem State.setPpc_pcStk (a : Addr) : (s.setPpc a).pcStk = s.pcStk := rfl
@[simp] theorem State.setPpc_loopStk (a : Addr) : (s.setPpc a).loopStk = s.loopStk := rfl
@[simp] theorem State.setPpc_cntrStk (a : Addr) : (s.setPpc a).cntrStk = s.cntrStk := rfl
@[simp] theorem State.setPpc_stsStk (a : Addr) : (s.setPpc a).stsStk = s.stsStk := rfl
@[simp] theorem State.setPpc_pm (a : Addr) : (s.setPpc a).pm = s.pm := rfl
@[simp] theorem State.setPpc_dm (a : Addr) : (s.setPpc a).dm = s.dm := rfl
@[simp] theorem State.setPpc_pmDevices (a : Addr) : (s.setPpc a).pmDevices = s.pmDevices := rfl
@[simp] theorem State.setPpc_dmDevices (a : Addr) : (s.setPpc a).dmDevices = s.dmDevices := rfl
@[simp] theorem State.setPpc_events (a : Addr) : (s.setPpc a).events = s.events := rfl
@[simp] theorem State.setPpc_bank (a : Addr) : (s.setPpc a).bank = s.bank := rfl
@[simp] theorem State.setPpc_otherBank (a : Addr) : (s.setPpc a).otherBank = s.otherBank := rfl
@[simp] theorem State.setPpc_gen (a : Addr) (n : Fin 8) : (s.setPpc a).gen n = s.gen n := rfl

/-! `State.setLoop` -/

@[simp] theorem State.setLoop_bank0 (e : Option Addr) (t : BitVec 4) : (s.setLoop e t).bank0 = s.bank0 := rfl
@[simp] theorem State.setLoop_bank1 (e : Option Addr) (t : BitVec 4) : (s.setLoop e t).bank1 = s.bank1 := rfl
@[simp] theorem State.setLoop_gens (e : Option Addr) (t : BitVec 4) : (s.setLoop e t).gens = s.gens := rfl
@[simp] theorem State.setLoop_pc (e : Option Addr) (t : BitVec 4) : (s.setLoop e t).pc = s.pc := rfl
@[simp] theorem State.setLoop_ppc (e : Option Addr) (t : BitVec 4) : (s.setLoop e t).ppc = s.ppc := rfl
@[simp] theorem State.setLoop_loopEnd (e : Option Addr) (t : BitVec 4) : (s.setLoop e t).loopEnd = e := rfl
@[simp] theorem State.setLoop_loopTerm (e : Option Addr) (t : BitVec 4) : (s.setLoop e t).loopTerm = t := rfl
@[simp] theorem State.setLoop_cntr (e : Option Addr) (t : BitVec 4) : (s.setLoop e t).cntr = s.cntr := rfl
@[simp] theorem State.setLoop_astat (e : Option Addr) (t : BitVec 4) : (s.setLoop e t).astat = s.astat := rfl
@[simp] theorem State.setLoop_mstat (e : Option Addr) (t : BitVec 4) : (s.setLoop e t).mstat = s.mstat := rfl
@[simp] theorem State.setLoop_sstat (e : Option Addr) (t : BitVec 4) : (s.setLoop e t).sstat = s.sstat := rfl
@[simp] theorem State.setLoop_imask (e : Option Addr) (t : BitVec 4) : (s.setLoop e t).imask = s.imask := rfl
@[simp] theorem State.setLoop_icntl (e : Option Addr) (t : BitVec 4) : (s.setLoop e t).icntl = s.icntl := rfl
@[simp] theorem State.setLoop_px (e : Option Addr) (t : BitVec 4) : (s.setLoop e t).px = s.px := rfl
@[simp] theorem State.setLoop_irqLevel (e : Option Addr) (t : BitVec 4) : (s.setLoop e t).irqLevel = s.irqLevel := rfl
@[simp] theorem State.setLoop_irqLatch (e : Option Addr) (t : BitVec 4) : (s.setLoop e t).irqLatch = s.irqLatch := rfl
@[simp] theorem State.setLoop_idle (e : Option Addr) (t : BitVec 4) : (s.setLoop e t).idle = s.idle := rfl
@[simp] theorem State.setLoop_flagIn (e : Option Addr) (t : BitVec 4) : (s.setLoop e t).flagIn = s.flagIn := rfl
@[simp] theorem State.setLoop_flagOut (e : Option Addr) (t : BitVec 4) : (s.setLoop e t).flagOut = s.flagOut := rfl
@[simp] theorem State.setLoop_irqExtraCycles (e : Option Addr) (t : BitVec 4) : (s.setLoop e t).irqExtraCycles = s.irqExtraCycles := rfl
@[simp] theorem State.setLoop_pcStk (e : Option Addr) (t : BitVec 4) : (s.setLoop e t).pcStk = s.pcStk := rfl
@[simp] theorem State.setLoop_loopStk (e : Option Addr) (t : BitVec 4) : (s.setLoop e t).loopStk = s.loopStk := rfl
@[simp] theorem State.setLoop_cntrStk (e : Option Addr) (t : BitVec 4) : (s.setLoop e t).cntrStk = s.cntrStk := rfl
@[simp] theorem State.setLoop_stsStk (e : Option Addr) (t : BitVec 4) : (s.setLoop e t).stsStk = s.stsStk := rfl
@[simp] theorem State.setLoop_pm (e : Option Addr) (t : BitVec 4) : (s.setLoop e t).pm = s.pm := rfl
@[simp] theorem State.setLoop_dm (e : Option Addr) (t : BitVec 4) : (s.setLoop e t).dm = s.dm := rfl
@[simp] theorem State.setLoop_pmDevices (e : Option Addr) (t : BitVec 4) : (s.setLoop e t).pmDevices = s.pmDevices := rfl
@[simp] theorem State.setLoop_dmDevices (e : Option Addr) (t : BitVec 4) : (s.setLoop e t).dmDevices = s.dmDevices := rfl
@[simp] theorem State.setLoop_events (e : Option Addr) (t : BitVec 4) : (s.setLoop e t).events = s.events := rfl
@[simp] theorem State.setLoop_bank (e : Option Addr) (t : BitVec 4) : (s.setLoop e t).bank = s.bank := rfl
@[simp] theorem State.setLoop_otherBank (e : Option Addr) (t : BitVec 4) : (s.setLoop e t).otherBank = s.otherBank := rfl
@[simp] theorem State.setLoop_gen (e : Option Addr) (t : BitVec 4) (n : Fin 8) : (s.setLoop e t).gen n = s.gen n := rfl

/-! `State.setCntr` -/

@[simp] theorem State.setCntr_bank0 (v : Word) : (s.setCntr v).bank0 = s.bank0 := rfl
@[simp] theorem State.setCntr_bank1 (v : Word) : (s.setCntr v).bank1 = s.bank1 := rfl
@[simp] theorem State.setCntr_gens (v : Word) : (s.setCntr v).gens = s.gens := rfl
@[simp] theorem State.setCntr_pc (v : Word) : (s.setCntr v).pc = s.pc := rfl
@[simp] theorem State.setCntr_ppc (v : Word) : (s.setCntr v).ppc = s.ppc := rfl
@[simp] theorem State.setCntr_loopEnd (v : Word) : (s.setCntr v).loopEnd = s.loopEnd := rfl
@[simp] theorem State.setCntr_loopTerm (v : Word) : (s.setCntr v).loopTerm = s.loopTerm := rfl
@[simp] theorem State.setCntr_cntr (v : Word) : (s.setCntr v).cntr = v := rfl
@[simp] theorem State.setCntr_astat (v : Word) : (s.setCntr v).astat = s.astat := rfl
@[simp] theorem State.setCntr_mstat (v : Word) : (s.setCntr v).mstat = s.mstat := rfl
@[simp] theorem State.setCntr_sstat (v : Word) : (s.setCntr v).sstat = s.sstat := rfl
@[simp] theorem State.setCntr_imask (v : Word) : (s.setCntr v).imask = s.imask := rfl
@[simp] theorem State.setCntr_icntl (v : Word) : (s.setCntr v).icntl = s.icntl := rfl
@[simp] theorem State.setCntr_px (v : Word) : (s.setCntr v).px = s.px := rfl
@[simp] theorem State.setCntr_irqLevel (v : Word) : (s.setCntr v).irqLevel = s.irqLevel := rfl
@[simp] theorem State.setCntr_irqLatch (v : Word) : (s.setCntr v).irqLatch = s.irqLatch := rfl
@[simp] theorem State.setCntr_idle (v : Word) : (s.setCntr v).idle = s.idle := rfl
@[simp] theorem State.setCntr_flagIn (v : Word) : (s.setCntr v).flagIn = s.flagIn := rfl
@[simp] theorem State.setCntr_flagOut (v : Word) : (s.setCntr v).flagOut = s.flagOut := rfl
@[simp] theorem State.setCntr_irqExtraCycles (v : Word) : (s.setCntr v).irqExtraCycles = s.irqExtraCycles := rfl
@[simp] theorem State.setCntr_pcStk (v : Word) : (s.setCntr v).pcStk = s.pcStk := rfl
@[simp] theorem State.setCntr_loopStk (v : Word) : (s.setCntr v).loopStk = s.loopStk := rfl
@[simp] theorem State.setCntr_cntrStk (v : Word) : (s.setCntr v).cntrStk = s.cntrStk := rfl
@[simp] theorem State.setCntr_stsStk (v : Word) : (s.setCntr v).stsStk = s.stsStk := rfl
@[simp] theorem State.setCntr_pm (v : Word) : (s.setCntr v).pm = s.pm := rfl
@[simp] theorem State.setCntr_dm (v : Word) : (s.setCntr v).dm = s.dm := rfl
@[simp] theorem State.setCntr_pmDevices (v : Word) : (s.setCntr v).pmDevices = s.pmDevices := rfl
@[simp] theorem State.setCntr_dmDevices (v : Word) : (s.setCntr v).dmDevices = s.dmDevices := rfl
@[simp] theorem State.setCntr_events (v : Word) : (s.setCntr v).events = s.events := rfl
@[simp] theorem State.setCntr_bank (v : Word) : (s.setCntr v).bank = s.bank := rfl
@[simp] theorem State.setCntr_otherBank (v : Word) : (s.setCntr v).otherBank = s.otherBank := rfl
@[simp] theorem State.setCntr_gen (v : Word) (n : Fin 8) : (s.setCntr v).gen n = s.gen n := rfl

/-! `State.setAstat` -/

@[simp] theorem State.setAstat_bank0 (v : BitVec 8) : (s.setAstat v).bank0 = s.bank0 := rfl
@[simp] theorem State.setAstat_bank1 (v : BitVec 8) : (s.setAstat v).bank1 = s.bank1 := rfl
@[simp] theorem State.setAstat_gens (v : BitVec 8) : (s.setAstat v).gens = s.gens := rfl
@[simp] theorem State.setAstat_pc (v : BitVec 8) : (s.setAstat v).pc = s.pc := rfl
@[simp] theorem State.setAstat_ppc (v : BitVec 8) : (s.setAstat v).ppc = s.ppc := rfl
@[simp] theorem State.setAstat_loopEnd (v : BitVec 8) : (s.setAstat v).loopEnd = s.loopEnd := rfl
@[simp] theorem State.setAstat_loopTerm (v : BitVec 8) : (s.setAstat v).loopTerm = s.loopTerm := rfl
@[simp] theorem State.setAstat_cntr (v : BitVec 8) : (s.setAstat v).cntr = s.cntr := rfl
@[simp] theorem State.setAstat_astat (v : BitVec 8) : (s.setAstat v).astat = v := rfl
@[simp] theorem State.setAstat_mstat (v : BitVec 8) : (s.setAstat v).mstat = s.mstat := rfl
@[simp] theorem State.setAstat_sstat (v : BitVec 8) : (s.setAstat v).sstat = s.sstat := rfl
@[simp] theorem State.setAstat_imask (v : BitVec 8) : (s.setAstat v).imask = s.imask := rfl
@[simp] theorem State.setAstat_icntl (v : BitVec 8) : (s.setAstat v).icntl = s.icntl := rfl
@[simp] theorem State.setAstat_px (v : BitVec 8) : (s.setAstat v).px = s.px := rfl
@[simp] theorem State.setAstat_irqLevel (v : BitVec 8) : (s.setAstat v).irqLevel = s.irqLevel := rfl
@[simp] theorem State.setAstat_irqLatch (v : BitVec 8) : (s.setAstat v).irqLatch = s.irqLatch := rfl
@[simp] theorem State.setAstat_idle (v : BitVec 8) : (s.setAstat v).idle = s.idle := rfl
@[simp] theorem State.setAstat_flagIn (v : BitVec 8) : (s.setAstat v).flagIn = s.flagIn := rfl
@[simp] theorem State.setAstat_flagOut (v : BitVec 8) : (s.setAstat v).flagOut = s.flagOut := rfl
@[simp] theorem State.setAstat_irqExtraCycles (v : BitVec 8) : (s.setAstat v).irqExtraCycles = s.irqExtraCycles := rfl
@[simp] theorem State.setAstat_pcStk (v : BitVec 8) : (s.setAstat v).pcStk = s.pcStk := rfl
@[simp] theorem State.setAstat_loopStk (v : BitVec 8) : (s.setAstat v).loopStk = s.loopStk := rfl
@[simp] theorem State.setAstat_cntrStk (v : BitVec 8) : (s.setAstat v).cntrStk = s.cntrStk := rfl
@[simp] theorem State.setAstat_stsStk (v : BitVec 8) : (s.setAstat v).stsStk = s.stsStk := rfl
@[simp] theorem State.setAstat_pm (v : BitVec 8) : (s.setAstat v).pm = s.pm := rfl
@[simp] theorem State.setAstat_dm (v : BitVec 8) : (s.setAstat v).dm = s.dm := rfl
@[simp] theorem State.setAstat_pmDevices (v : BitVec 8) : (s.setAstat v).pmDevices = s.pmDevices := rfl
@[simp] theorem State.setAstat_dmDevices (v : BitVec 8) : (s.setAstat v).dmDevices = s.dmDevices := rfl
@[simp] theorem State.setAstat_events (v : BitVec 8) : (s.setAstat v).events = s.events := rfl
@[simp] theorem State.setAstat_bank (v : BitVec 8) : (s.setAstat v).bank = s.bank := rfl
@[simp] theorem State.setAstat_otherBank (v : BitVec 8) : (s.setAstat v).otherBank = s.otherBank := rfl
@[simp] theorem State.setAstat_gen (v : BitVec 8) (n : Fin 8) : (s.setAstat v).gen n = s.gen n := rfl

/-! `State.setMstat` -/

@[simp] theorem State.setMstat_bank0 (v : BitVec 4) : (s.setMstat v).bank0 = s.bank0 := rfl
@[simp] theorem State.setMstat_bank1 (v : BitVec 4) : (s.setMstat v).bank1 = s.bank1 := rfl
@[simp] theorem State.setMstat_gens (v : BitVec 4) : (s.setMstat v).gens = s.gens := rfl
@[simp] theorem State.setMstat_pc (v : BitVec 4) : (s.setMstat v).pc = s.pc := rfl
@[simp] theorem State.setMstat_ppc (v : BitVec 4) : (s.setMstat v).ppc = s.ppc := rfl
@[simp] theorem State.setMstat_loopEnd (v : BitVec 4) : (s.setMstat v).loopEnd = s.loopEnd := rfl
@[simp] theorem State.setMstat_loopTerm (v : BitVec 4) : (s.setMstat v).loopTerm = s.loopTerm := rfl
@[simp] theorem State.setMstat_cntr (v : BitVec 4) : (s.setMstat v).cntr = s.cntr := rfl
@[simp] theorem State.setMstat_astat (v : BitVec 4) : (s.setMstat v).astat = s.astat := rfl
@[simp] theorem State.setMstat_mstat (v : BitVec 4) : (s.setMstat v).mstat = v := rfl
@[simp] theorem State.setMstat_sstat (v : BitVec 4) : (s.setMstat v).sstat = s.sstat := rfl
@[simp] theorem State.setMstat_imask (v : BitVec 4) : (s.setMstat v).imask = s.imask := rfl
@[simp] theorem State.setMstat_icntl (v : BitVec 4) : (s.setMstat v).icntl = s.icntl := rfl
@[simp] theorem State.setMstat_px (v : BitVec 4) : (s.setMstat v).px = s.px := rfl
@[simp] theorem State.setMstat_irqLevel (v : BitVec 4) : (s.setMstat v).irqLevel = s.irqLevel := rfl
@[simp] theorem State.setMstat_irqLatch (v : BitVec 4) : (s.setMstat v).irqLatch = s.irqLatch := rfl
@[simp] theorem State.setMstat_idle (v : BitVec 4) : (s.setMstat v).idle = s.idle := rfl
@[simp] theorem State.setMstat_flagIn (v : BitVec 4) : (s.setMstat v).flagIn = s.flagIn := rfl
@[simp] theorem State.setMstat_flagOut (v : BitVec 4) : (s.setMstat v).flagOut = s.flagOut := rfl
@[simp] theorem State.setMstat_irqExtraCycles (v : BitVec 4) : (s.setMstat v).irqExtraCycles = s.irqExtraCycles := rfl
@[simp] theorem State.setMstat_pcStk (v : BitVec 4) : (s.setMstat v).pcStk = s.pcStk := rfl
@[simp] theorem State.setMstat_loopStk (v : BitVec 4) : (s.setMstat v).loopStk = s.loopStk := rfl
@[simp] theorem State.setMstat_cntrStk (v : BitVec 4) : (s.setMstat v).cntrStk = s.cntrStk := rfl
@[simp] theorem State.setMstat_stsStk (v : BitVec 4) : (s.setMstat v).stsStk = s.stsStk := rfl
@[simp] theorem State.setMstat_pm (v : BitVec 4) : (s.setMstat v).pm = s.pm := rfl
@[simp] theorem State.setMstat_dm (v : BitVec 4) : (s.setMstat v).dm = s.dm := rfl
@[simp] theorem State.setMstat_pmDevices (v : BitVec 4) : (s.setMstat v).pmDevices = s.pmDevices := rfl
@[simp] theorem State.setMstat_dmDevices (v : BitVec 4) : (s.setMstat v).dmDevices = s.dmDevices := rfl
@[simp] theorem State.setMstat_events (v : BitVec 4) : (s.setMstat v).events = s.events := rfl
@[simp] theorem State.setMstat_gen (v : BitVec 4) (n : Fin 8) : (s.setMstat v).gen n = s.gen n := rfl

/-! `State.setImask` -/

@[simp] theorem State.setImask_bank0 (v : BitVec 4) : (s.setImask v).bank0 = s.bank0 := rfl
@[simp] theorem State.setImask_bank1 (v : BitVec 4) : (s.setImask v).bank1 = s.bank1 := rfl
@[simp] theorem State.setImask_gens (v : BitVec 4) : (s.setImask v).gens = s.gens := rfl
@[simp] theorem State.setImask_pc (v : BitVec 4) : (s.setImask v).pc = s.pc := rfl
@[simp] theorem State.setImask_ppc (v : BitVec 4) : (s.setImask v).ppc = s.ppc := rfl
@[simp] theorem State.setImask_loopEnd (v : BitVec 4) : (s.setImask v).loopEnd = s.loopEnd := rfl
@[simp] theorem State.setImask_loopTerm (v : BitVec 4) : (s.setImask v).loopTerm = s.loopTerm := rfl
@[simp] theorem State.setImask_cntr (v : BitVec 4) : (s.setImask v).cntr = s.cntr := rfl
@[simp] theorem State.setImask_astat (v : BitVec 4) : (s.setImask v).astat = s.astat := rfl
@[simp] theorem State.setImask_mstat (v : BitVec 4) : (s.setImask v).mstat = s.mstat := rfl
@[simp] theorem State.setImask_sstat (v : BitVec 4) : (s.setImask v).sstat = s.sstat := rfl
@[simp] theorem State.setImask_imask (v : BitVec 4) : (s.setImask v).imask = v := rfl
@[simp] theorem State.setImask_icntl (v : BitVec 4) : (s.setImask v).icntl = s.icntl := rfl
@[simp] theorem State.setImask_px (v : BitVec 4) : (s.setImask v).px = s.px := rfl
@[simp] theorem State.setImask_irqLevel (v : BitVec 4) : (s.setImask v).irqLevel = s.irqLevel := rfl
@[simp] theorem State.setImask_irqLatch (v : BitVec 4) : (s.setImask v).irqLatch = s.irqLatch := rfl
@[simp] theorem State.setImask_idle (v : BitVec 4) : (s.setImask v).idle = s.idle := rfl
@[simp] theorem State.setImask_flagIn (v : BitVec 4) : (s.setImask v).flagIn = s.flagIn := rfl
@[simp] theorem State.setImask_flagOut (v : BitVec 4) : (s.setImask v).flagOut = s.flagOut := rfl
@[simp] theorem State.setImask_irqExtraCycles (v : BitVec 4) : (s.setImask v).irqExtraCycles = s.irqExtraCycles := rfl
@[simp] theorem State.setImask_pcStk (v : BitVec 4) : (s.setImask v).pcStk = s.pcStk := rfl
@[simp] theorem State.setImask_loopStk (v : BitVec 4) : (s.setImask v).loopStk = s.loopStk := rfl
@[simp] theorem State.setImask_cntrStk (v : BitVec 4) : (s.setImask v).cntrStk = s.cntrStk := rfl
@[simp] theorem State.setImask_stsStk (v : BitVec 4) : (s.setImask v).stsStk = s.stsStk := rfl
@[simp] theorem State.setImask_pm (v : BitVec 4) : (s.setImask v).pm = s.pm := rfl
@[simp] theorem State.setImask_dm (v : BitVec 4) : (s.setImask v).dm = s.dm := rfl
@[simp] theorem State.setImask_pmDevices (v : BitVec 4) : (s.setImask v).pmDevices = s.pmDevices := rfl
@[simp] theorem State.setImask_dmDevices (v : BitVec 4) : (s.setImask v).dmDevices = s.dmDevices := rfl
@[simp] theorem State.setImask_events (v : BitVec 4) : (s.setImask v).events = s.events := rfl
@[simp] theorem State.setImask_bank (v : BitVec 4) : (s.setImask v).bank = s.bank := rfl
@[simp] theorem State.setImask_otherBank (v : BitVec 4) : (s.setImask v).otherBank = s.otherBank := rfl
@[simp] theorem State.setImask_gen (v : BitVec 4) (n : Fin 8) : (s.setImask v).gen n = s.gen n := rfl

/-! `State.setIcntl` -/

@[simp] theorem State.setIcntl_bank0 (v : BitVec 5) : (s.setIcntl v).bank0 = s.bank0 := rfl
@[simp] theorem State.setIcntl_bank1 (v : BitVec 5) : (s.setIcntl v).bank1 = s.bank1 := rfl
@[simp] theorem State.setIcntl_gens (v : BitVec 5) : (s.setIcntl v).gens = s.gens := rfl
@[simp] theorem State.setIcntl_pc (v : BitVec 5) : (s.setIcntl v).pc = s.pc := rfl
@[simp] theorem State.setIcntl_ppc (v : BitVec 5) : (s.setIcntl v).ppc = s.ppc := rfl
@[simp] theorem State.setIcntl_loopEnd (v : BitVec 5) : (s.setIcntl v).loopEnd = s.loopEnd := rfl
@[simp] theorem State.setIcntl_loopTerm (v : BitVec 5) : (s.setIcntl v).loopTerm = s.loopTerm := rfl
@[simp] theorem State.setIcntl_cntr (v : BitVec 5) : (s.setIcntl v).cntr = s.cntr := rfl
@[simp] theorem State.setIcntl_astat (v : BitVec 5) : (s.setIcntl v).astat = s.astat := rfl
@[simp] theorem State.setIcntl_mstat (v : BitVec 5) : (s.setIcntl v).mstat = s.mstat := rfl
@[simp] theorem State.setIcntl_sstat (v : BitVec 5) : (s.setIcntl v).sstat = s.sstat := rfl
@[simp] theorem State.setIcntl_imask (v : BitVec 5) : (s.setIcntl v).imask = s.imask := rfl
@[simp] theorem State.setIcntl_icntl (v : BitVec 5) : (s.setIcntl v).icntl = v := rfl
@[simp] theorem State.setIcntl_px (v : BitVec 5) : (s.setIcntl v).px = s.px := rfl
@[simp] theorem State.setIcntl_irqLevel (v : BitVec 5) : (s.setIcntl v).irqLevel = s.irqLevel := rfl
@[simp] theorem State.setIcntl_irqLatch (v : BitVec 5) : (s.setIcntl v).irqLatch = s.irqLatch := rfl
@[simp] theorem State.setIcntl_idle (v : BitVec 5) : (s.setIcntl v).idle = s.idle := rfl
@[simp] theorem State.setIcntl_flagIn (v : BitVec 5) : (s.setIcntl v).flagIn = s.flagIn := rfl
@[simp] theorem State.setIcntl_flagOut (v : BitVec 5) : (s.setIcntl v).flagOut = s.flagOut := rfl
@[simp] theorem State.setIcntl_irqExtraCycles (v : BitVec 5) : (s.setIcntl v).irqExtraCycles = s.irqExtraCycles := rfl
@[simp] theorem State.setIcntl_pcStk (v : BitVec 5) : (s.setIcntl v).pcStk = s.pcStk := rfl
@[simp] theorem State.setIcntl_loopStk (v : BitVec 5) : (s.setIcntl v).loopStk = s.loopStk := rfl
@[simp] theorem State.setIcntl_cntrStk (v : BitVec 5) : (s.setIcntl v).cntrStk = s.cntrStk := rfl
@[simp] theorem State.setIcntl_stsStk (v : BitVec 5) : (s.setIcntl v).stsStk = s.stsStk := rfl
@[simp] theorem State.setIcntl_pm (v : BitVec 5) : (s.setIcntl v).pm = s.pm := rfl
@[simp] theorem State.setIcntl_dm (v : BitVec 5) : (s.setIcntl v).dm = s.dm := rfl
@[simp] theorem State.setIcntl_pmDevices (v : BitVec 5) : (s.setIcntl v).pmDevices = s.pmDevices := rfl
@[simp] theorem State.setIcntl_dmDevices (v : BitVec 5) : (s.setIcntl v).dmDevices = s.dmDevices := rfl
@[simp] theorem State.setIcntl_events (v : BitVec 5) : (s.setIcntl v).events = s.events := rfl
@[simp] theorem State.setIcntl_bank (v : BitVec 5) : (s.setIcntl v).bank = s.bank := rfl
@[simp] theorem State.setIcntl_otherBank (v : BitVec 5) : (s.setIcntl v).otherBank = s.otherBank := rfl
@[simp] theorem State.setIcntl_gen (v : BitVec 5) (n : Fin 8) : (s.setIcntl v).gen n = s.gen n := rfl

/-! `State.setPx` -/

@[simp] theorem State.setPx_bank0 (v : Byte) : (s.setPx v).bank0 = s.bank0 := rfl
@[simp] theorem State.setPx_bank1 (v : Byte) : (s.setPx v).bank1 = s.bank1 := rfl
@[simp] theorem State.setPx_gens (v : Byte) : (s.setPx v).gens = s.gens := rfl
@[simp] theorem State.setPx_pc (v : Byte) : (s.setPx v).pc = s.pc := rfl
@[simp] theorem State.setPx_ppc (v : Byte) : (s.setPx v).ppc = s.ppc := rfl
@[simp] theorem State.setPx_loopEnd (v : Byte) : (s.setPx v).loopEnd = s.loopEnd := rfl
@[simp] theorem State.setPx_loopTerm (v : Byte) : (s.setPx v).loopTerm = s.loopTerm := rfl
@[simp] theorem State.setPx_cntr (v : Byte) : (s.setPx v).cntr = s.cntr := rfl
@[simp] theorem State.setPx_astat (v : Byte) : (s.setPx v).astat = s.astat := rfl
@[simp] theorem State.setPx_mstat (v : Byte) : (s.setPx v).mstat = s.mstat := rfl
@[simp] theorem State.setPx_sstat (v : Byte) : (s.setPx v).sstat = s.sstat := rfl
@[simp] theorem State.setPx_imask (v : Byte) : (s.setPx v).imask = s.imask := rfl
@[simp] theorem State.setPx_icntl (v : Byte) : (s.setPx v).icntl = s.icntl := rfl
@[simp] theorem State.setPx_px (v : Byte) : (s.setPx v).px = v := rfl
@[simp] theorem State.setPx_irqLevel (v : Byte) : (s.setPx v).irqLevel = s.irqLevel := rfl
@[simp] theorem State.setPx_irqLatch (v : Byte) : (s.setPx v).irqLatch = s.irqLatch := rfl
@[simp] theorem State.setPx_idle (v : Byte) : (s.setPx v).idle = s.idle := rfl
@[simp] theorem State.setPx_flagIn (v : Byte) : (s.setPx v).flagIn = s.flagIn := rfl
@[simp] theorem State.setPx_flagOut (v : Byte) : (s.setPx v).flagOut = s.flagOut := rfl
@[simp] theorem State.setPx_irqExtraCycles (v : Byte) : (s.setPx v).irqExtraCycles = s.irqExtraCycles := rfl
@[simp] theorem State.setPx_pcStk (v : Byte) : (s.setPx v).pcStk = s.pcStk := rfl
@[simp] theorem State.setPx_loopStk (v : Byte) : (s.setPx v).loopStk = s.loopStk := rfl
@[simp] theorem State.setPx_cntrStk (v : Byte) : (s.setPx v).cntrStk = s.cntrStk := rfl
@[simp] theorem State.setPx_stsStk (v : Byte) : (s.setPx v).stsStk = s.stsStk := rfl
@[simp] theorem State.setPx_pm (v : Byte) : (s.setPx v).pm = s.pm := rfl
@[simp] theorem State.setPx_dm (v : Byte) : (s.setPx v).dm = s.dm := rfl
@[simp] theorem State.setPx_pmDevices (v : Byte) : (s.setPx v).pmDevices = s.pmDevices := rfl
@[simp] theorem State.setPx_dmDevices (v : Byte) : (s.setPx v).dmDevices = s.dmDevices := rfl
@[simp] theorem State.setPx_events (v : Byte) : (s.setPx v).events = s.events := rfl
@[simp] theorem State.setPx_bank (v : Byte) : (s.setPx v).bank = s.bank := rfl
@[simp] theorem State.setPx_otherBank (v : Byte) : (s.setPx v).otherBank = s.otherBank := rfl
@[simp] theorem State.setPx_gen (v : Byte) (n : Fin 8) : (s.setPx v).gen n = s.gen n := rfl

/-! `State.setIrqLevel` -/

@[simp] theorem State.setIrqLevel_bank0 (v : BitVec 4) : (s.setIrqLevel v).bank0 = s.bank0 := rfl
@[simp] theorem State.setIrqLevel_bank1 (v : BitVec 4) : (s.setIrqLevel v).bank1 = s.bank1 := rfl
@[simp] theorem State.setIrqLevel_gens (v : BitVec 4) : (s.setIrqLevel v).gens = s.gens := rfl
@[simp] theorem State.setIrqLevel_pc (v : BitVec 4) : (s.setIrqLevel v).pc = s.pc := rfl
@[simp] theorem State.setIrqLevel_ppc (v : BitVec 4) : (s.setIrqLevel v).ppc = s.ppc := rfl
@[simp] theorem State.setIrqLevel_loopEnd (v : BitVec 4) : (s.setIrqLevel v).loopEnd = s.loopEnd := rfl
@[simp] theorem State.setIrqLevel_loopTerm (v : BitVec 4) : (s.setIrqLevel v).loopTerm = s.loopTerm := rfl
@[simp] theorem State.setIrqLevel_cntr (v : BitVec 4) : (s.setIrqLevel v).cntr = s.cntr := rfl
@[simp] theorem State.setIrqLevel_astat (v : BitVec 4) : (s.setIrqLevel v).astat = s.astat := rfl
@[simp] theorem State.setIrqLevel_mstat (v : BitVec 4) : (s.setIrqLevel v).mstat = s.mstat := rfl
@[simp] theorem State.setIrqLevel_sstat (v : BitVec 4) : (s.setIrqLevel v).sstat = s.sstat := rfl
@[simp] theorem State.setIrqLevel_imask (v : BitVec 4) : (s.setIrqLevel v).imask = s.imask := rfl
@[simp] theorem State.setIrqLevel_icntl (v : BitVec 4) : (s.setIrqLevel v).icntl = s.icntl := rfl
@[simp] theorem State.setIrqLevel_px (v : BitVec 4) : (s.setIrqLevel v).px = s.px := rfl
@[simp] theorem State.setIrqLevel_irqLevel (v : BitVec 4) : (s.setIrqLevel v).irqLevel = v := rfl
@[simp] theorem State.setIrqLevel_irqLatch (v : BitVec 4) : (s.setIrqLevel v).irqLatch = s.irqLatch := rfl
@[simp] theorem State.setIrqLevel_idle (v : BitVec 4) : (s.setIrqLevel v).idle = s.idle := rfl
@[simp] theorem State.setIrqLevel_flagIn (v : BitVec 4) : (s.setIrqLevel v).flagIn = s.flagIn := rfl
@[simp] theorem State.setIrqLevel_flagOut (v : BitVec 4) : (s.setIrqLevel v).flagOut = s.flagOut := rfl
@[simp] theorem State.setIrqLevel_irqExtraCycles (v : BitVec 4) : (s.setIrqLevel v).irqExtraCycles = s.irqExtraCycles := rfl
@[simp] theorem State.setIrqLevel_pcStk (v : BitVec 4) : (s.setIrqLevel v).pcStk = s.pcStk := rfl
@[simp] theorem State.setIrqLevel_loopStk (v : BitVec 4) : (s.setIrqLevel v).loopStk = s.loopStk := rfl
@[simp] theorem State.setIrqLevel_cntrStk (v : BitVec 4) : (s.setIrqLevel v).cntrStk = s.cntrStk := rfl
@[simp] theorem State.setIrqLevel_stsStk (v : BitVec 4) : (s.setIrqLevel v).stsStk = s.stsStk := rfl
@[simp] theorem State.setIrqLevel_pm (v : BitVec 4) : (s.setIrqLevel v).pm = s.pm := rfl
@[simp] theorem State.setIrqLevel_dm (v : BitVec 4) : (s.setIrqLevel v).dm = s.dm := rfl
@[simp] theorem State.setIrqLevel_pmDevices (v : BitVec 4) : (s.setIrqLevel v).pmDevices = s.pmDevices := rfl
@[simp] theorem State.setIrqLevel_dmDevices (v : BitVec 4) : (s.setIrqLevel v).dmDevices = s.dmDevices := rfl
@[simp] theorem State.setIrqLevel_events (v : BitVec 4) : (s.setIrqLevel v).events = s.events := rfl
@[simp] theorem State.setIrqLevel_bank (v : BitVec 4) : (s.setIrqLevel v).bank = s.bank := rfl
@[simp] theorem State.setIrqLevel_otherBank (v : BitVec 4) : (s.setIrqLevel v).otherBank = s.otherBank := rfl
@[simp] theorem State.setIrqLevel_gen (v : BitVec 4) (n : Fin 8) : (s.setIrqLevel v).gen n = s.gen n := rfl

/-! `State.setIrqLatch` -/

@[simp] theorem State.setIrqLatch_bank0 (v : BitVec 4) : (s.setIrqLatch v).bank0 = s.bank0 := rfl
@[simp] theorem State.setIrqLatch_bank1 (v : BitVec 4) : (s.setIrqLatch v).bank1 = s.bank1 := rfl
@[simp] theorem State.setIrqLatch_gens (v : BitVec 4) : (s.setIrqLatch v).gens = s.gens := rfl
@[simp] theorem State.setIrqLatch_pc (v : BitVec 4) : (s.setIrqLatch v).pc = s.pc := rfl
@[simp] theorem State.setIrqLatch_ppc (v : BitVec 4) : (s.setIrqLatch v).ppc = s.ppc := rfl
@[simp] theorem State.setIrqLatch_loopEnd (v : BitVec 4) : (s.setIrqLatch v).loopEnd = s.loopEnd := rfl
@[simp] theorem State.setIrqLatch_loopTerm (v : BitVec 4) : (s.setIrqLatch v).loopTerm = s.loopTerm := rfl
@[simp] theorem State.setIrqLatch_cntr (v : BitVec 4) : (s.setIrqLatch v).cntr = s.cntr := rfl
@[simp] theorem State.setIrqLatch_astat (v : BitVec 4) : (s.setIrqLatch v).astat = s.astat := rfl
@[simp] theorem State.setIrqLatch_mstat (v : BitVec 4) : (s.setIrqLatch v).mstat = s.mstat := rfl
@[simp] theorem State.setIrqLatch_sstat (v : BitVec 4) : (s.setIrqLatch v).sstat = s.sstat := rfl
@[simp] theorem State.setIrqLatch_imask (v : BitVec 4) : (s.setIrqLatch v).imask = s.imask := rfl
@[simp] theorem State.setIrqLatch_icntl (v : BitVec 4) : (s.setIrqLatch v).icntl = s.icntl := rfl
@[simp] theorem State.setIrqLatch_px (v : BitVec 4) : (s.setIrqLatch v).px = s.px := rfl
@[simp] theorem State.setIrqLatch_irqLevel (v : BitVec 4) : (s.setIrqLatch v).irqLevel = s.irqLevel := rfl
@[simp] theorem State.setIrqLatch_irqLatch (v : BitVec 4) : (s.setIrqLatch v).irqLatch = v := rfl
@[simp] theorem State.setIrqLatch_idle (v : BitVec 4) : (s.setIrqLatch v).idle = s.idle := rfl
@[simp] theorem State.setIrqLatch_flagIn (v : BitVec 4) : (s.setIrqLatch v).flagIn = s.flagIn := rfl
@[simp] theorem State.setIrqLatch_flagOut (v : BitVec 4) : (s.setIrqLatch v).flagOut = s.flagOut := rfl
@[simp] theorem State.setIrqLatch_irqExtraCycles (v : BitVec 4) : (s.setIrqLatch v).irqExtraCycles = s.irqExtraCycles := rfl
@[simp] theorem State.setIrqLatch_pcStk (v : BitVec 4) : (s.setIrqLatch v).pcStk = s.pcStk := rfl
@[simp] theorem State.setIrqLatch_loopStk (v : BitVec 4) : (s.setIrqLatch v).loopStk = s.loopStk := rfl
@[simp] theorem State.setIrqLatch_cntrStk (v : BitVec 4) : (s.setIrqLatch v).cntrStk = s.cntrStk := rfl
@[simp] theorem State.setIrqLatch_stsStk (v : BitVec 4) : (s.setIrqLatch v).stsStk = s.stsStk := rfl
@[simp] theorem State.setIrqLatch_pm (v : BitVec 4) : (s.setIrqLatch v).pm = s.pm := rfl
@[simp] theorem State.setIrqLatch_dm (v : BitVec 4) : (s.setIrqLatch v).dm = s.dm := rfl
@[simp] theorem State.setIrqLatch_pmDevices (v : BitVec 4) : (s.setIrqLatch v).pmDevices = s.pmDevices := rfl
@[simp] theorem State.setIrqLatch_dmDevices (v : BitVec 4) : (s.setIrqLatch v).dmDevices = s.dmDevices := rfl
@[simp] theorem State.setIrqLatch_events (v : BitVec 4) : (s.setIrqLatch v).events = s.events := rfl
@[simp] theorem State.setIrqLatch_bank (v : BitVec 4) : (s.setIrqLatch v).bank = s.bank := rfl
@[simp] theorem State.setIrqLatch_otherBank (v : BitVec 4) : (s.setIrqLatch v).otherBank = s.otherBank := rfl
@[simp] theorem State.setIrqLatch_gen (v : BitVec 4) (n : Fin 8) : (s.setIrqLatch v).gen n = s.gen n := rfl

/-! `State.setIdle` -/

@[simp] theorem State.setIdle_bank0 (b : Bool) : (s.setIdle b).bank0 = s.bank0 := rfl
@[simp] theorem State.setIdle_bank1 (b : Bool) : (s.setIdle b).bank1 = s.bank1 := rfl
@[simp] theorem State.setIdle_gens (b : Bool) : (s.setIdle b).gens = s.gens := rfl
@[simp] theorem State.setIdle_pc (b : Bool) : (s.setIdle b).pc = s.pc := rfl
@[simp] theorem State.setIdle_ppc (b : Bool) : (s.setIdle b).ppc = s.ppc := rfl
@[simp] theorem State.setIdle_loopEnd (b : Bool) : (s.setIdle b).loopEnd = s.loopEnd := rfl
@[simp] theorem State.setIdle_loopTerm (b : Bool) : (s.setIdle b).loopTerm = s.loopTerm := rfl
@[simp] theorem State.setIdle_cntr (b : Bool) : (s.setIdle b).cntr = s.cntr := rfl
@[simp] theorem State.setIdle_astat (b : Bool) : (s.setIdle b).astat = s.astat := rfl
@[simp] theorem State.setIdle_mstat (b : Bool) : (s.setIdle b).mstat = s.mstat := rfl
@[simp] theorem State.setIdle_sstat (b : Bool) : (s.setIdle b).sstat = s.sstat := rfl
@[simp] theorem State.setIdle_imask (b : Bool) : (s.setIdle b).imask = s.imask := rfl
@[simp] theorem State.setIdle_icntl (b : Bool) : (s.setIdle b).icntl = s.icntl := rfl
@[simp] theorem State.setIdle_px (b : Bool) : (s.setIdle b).px = s.px := rfl
@[simp] theorem State.setIdle_irqLevel (b : Bool) : (s.setIdle b).irqLevel = s.irqLevel := rfl
@[simp] theorem State.setIdle_irqLatch (b : Bool) : (s.setIdle b).irqLatch = s.irqLatch := rfl
@[simp] theorem State.setIdle_idle (b : Bool) : (s.setIdle b).idle = b := rfl
@[simp] theorem State.setIdle_flagIn (b : Bool) : (s.setIdle b).flagIn = s.flagIn := rfl
@[simp] theorem State.setIdle_flagOut (b : Bool) : (s.setIdle b).flagOut = s.flagOut := rfl
@[simp] theorem State.setIdle_irqExtraCycles (b : Bool) : (s.setIdle b).irqExtraCycles = s.irqExtraCycles := rfl
@[simp] theorem State.setIdle_pcStk (b : Bool) : (s.setIdle b).pcStk = s.pcStk := rfl
@[simp] theorem State.setIdle_loopStk (b : Bool) : (s.setIdle b).loopStk = s.loopStk := rfl
@[simp] theorem State.setIdle_cntrStk (b : Bool) : (s.setIdle b).cntrStk = s.cntrStk := rfl
@[simp] theorem State.setIdle_stsStk (b : Bool) : (s.setIdle b).stsStk = s.stsStk := rfl
@[simp] theorem State.setIdle_pm (b : Bool) : (s.setIdle b).pm = s.pm := rfl
@[simp] theorem State.setIdle_dm (b : Bool) : (s.setIdle b).dm = s.dm := rfl
@[simp] theorem State.setIdle_pmDevices (b : Bool) : (s.setIdle b).pmDevices = s.pmDevices := rfl
@[simp] theorem State.setIdle_dmDevices (b : Bool) : (s.setIdle b).dmDevices = s.dmDevices := rfl
@[simp] theorem State.setIdle_events (b : Bool) : (s.setIdle b).events = s.events := rfl
@[simp] theorem State.setIdle_bank (b : Bool) : (s.setIdle b).bank = s.bank := rfl
@[simp] theorem State.setIdle_otherBank (b : Bool) : (s.setIdle b).otherBank = s.otherBank := rfl
@[simp] theorem State.setIdle_gen (b : Bool) (n : Fin 8) : (s.setIdle b).gen n = s.gen n := rfl

/-! `State.setPm` -/

@[simp] theorem State.setPm_bank0 (m : Memory) : (s.setPm m).bank0 = s.bank0 := rfl
@[simp] theorem State.setPm_bank1 (m : Memory) : (s.setPm m).bank1 = s.bank1 := rfl
@[simp] theorem State.setPm_gens (m : Memory) : (s.setPm m).gens = s.gens := rfl
@[simp] theorem State.setPm_pc (m : Memory) : (s.setPm m).pc = s.pc := rfl
@[simp] theorem State.setPm_ppc (m : Memory) : (s.setPm m).ppc = s.ppc := rfl
@[simp] theorem State.setPm_loopEnd (m : Memory) : (s.setPm m).loopEnd = s.loopEnd := rfl
@[simp] theorem State.setPm_loopTerm (m : Memory) : (s.setPm m).loopTerm = s.loopTerm := rfl
@[simp] theorem State.setPm_cntr (m : Memory) : (s.setPm m).cntr = s.cntr := rfl
@[simp] theorem State.setPm_astat (m : Memory) : (s.setPm m).astat = s.astat := rfl
@[simp] theorem State.setPm_mstat (m : Memory) : (s.setPm m).mstat = s.mstat := rfl
@[simp] theorem State.setPm_sstat (m : Memory) : (s.setPm m).sstat = s.sstat := rfl
@[simp] theorem State.setPm_imask (m : Memory) : (s.setPm m).imask = s.imask := rfl
@[simp] theorem State.setPm_icntl (m : Memory) : (s.setPm m).icntl = s.icntl := rfl
@[simp] theorem State.setPm_px (m : Memory) : (s.setPm m).px = s.px := rfl
@[simp] theorem State.setPm_irqLevel (m : Memory) : (s.setPm m).irqLevel = s.irqLevel := rfl
@[simp] theorem State.setPm_irqLatch (m : Memory) : (s.setPm m).irqLatch = s.irqLatch := rfl
@[simp] theorem State.setPm_idle (m : Memory) : (s.setPm m).idle = s.idle := rfl
@[simp] theorem State.setPm_flagIn (m : Memory) : (s.setPm m).flagIn = s.flagIn := rfl
@[simp] theorem State.setPm_flagOut (m : Memory) : (s.setPm m).flagOut = s.flagOut := rfl
@[simp] theorem State.setPm_irqExtraCycles (m : Memory) : (s.setPm m).irqExtraCycles = s.irqExtraCycles := rfl
@[simp] theorem State.setPm_pcStk (m : Memory) : (s.setPm m).pcStk = s.pcStk := rfl
@[simp] theorem State.setPm_loopStk (m : Memory) : (s.setPm m).loopStk = s.loopStk := rfl
@[simp] theorem State.setPm_cntrStk (m : Memory) : (s.setPm m).cntrStk = s.cntrStk := rfl
@[simp] theorem State.setPm_stsStk (m : Memory) : (s.setPm m).stsStk = s.stsStk := rfl
@[simp] theorem State.setPm_pm (m : Memory) : (s.setPm m).pm = m := rfl
@[simp] theorem State.setPm_dm (m : Memory) : (s.setPm m).dm = s.dm := rfl
@[simp] theorem State.setPm_pmDevices (m : Memory) : (s.setPm m).pmDevices = s.pmDevices := rfl
@[simp] theorem State.setPm_dmDevices (m : Memory) : (s.setPm m).dmDevices = s.dmDevices := rfl
@[simp] theorem State.setPm_events (m : Memory) : (s.setPm m).events = s.events := rfl
@[simp] theorem State.setPm_bank (m : Memory) : (s.setPm m).bank = s.bank := rfl
@[simp] theorem State.setPm_otherBank (m : Memory) : (s.setPm m).otherBank = s.otherBank := rfl
@[simp] theorem State.setPm_gen (m : Memory) (n : Fin 8) : (s.setPm m).gen n = s.gen n := rfl

/-! `State.setDm` -/

@[simp] theorem State.setDm_bank0 (m : Memory) : (s.setDm m).bank0 = s.bank0 := rfl
@[simp] theorem State.setDm_bank1 (m : Memory) : (s.setDm m).bank1 = s.bank1 := rfl
@[simp] theorem State.setDm_gens (m : Memory) : (s.setDm m).gens = s.gens := rfl
@[simp] theorem State.setDm_pc (m : Memory) : (s.setDm m).pc = s.pc := rfl
@[simp] theorem State.setDm_ppc (m : Memory) : (s.setDm m).ppc = s.ppc := rfl
@[simp] theorem State.setDm_loopEnd (m : Memory) : (s.setDm m).loopEnd = s.loopEnd := rfl
@[simp] theorem State.setDm_loopTerm (m : Memory) : (s.setDm m).loopTerm = s.loopTerm := rfl
@[simp] theorem State.setDm_cntr (m : Memory) : (s.setDm m).cntr = s.cntr := rfl
@[simp] theorem State.setDm_astat (m : Memory) : (s.setDm m).astat = s.astat := rfl
@[simp] theorem State.setDm_mstat (m : Memory) : (s.setDm m).mstat = s.mstat := rfl
@[simp] theorem State.setDm_sstat (m : Memory) : (s.setDm m).sstat = s.sstat := rfl
@[simp] theorem State.setDm_imask (m : Memory) : (s.setDm m).imask = s.imask := rfl
@[simp] theorem State.setDm_icntl (m : Memory) : (s.setDm m).icntl = s.icntl := rfl
@[simp] theorem State.setDm_px (m : Memory) : (s.setDm m).px = s.px := rfl
@[simp] theorem State.setDm_irqLevel (m : Memory) : (s.setDm m).irqLevel = s.irqLevel := rfl
@[simp] theorem State.setDm_irqLatch (m : Memory) : (s.setDm m).irqLatch = s.irqLatch := rfl
@[simp] theorem State.setDm_idle (m : Memory) : (s.setDm m).idle = s.idle := rfl
@[simp] theorem State.setDm_flagIn (m : Memory) : (s.setDm m).flagIn = s.flagIn := rfl
@[simp] theorem State.setDm_flagOut (m : Memory) : (s.setDm m).flagOut = s.flagOut := rfl
@[simp] theorem State.setDm_irqExtraCycles (m : Memory) : (s.setDm m).irqExtraCycles = s.irqExtraCycles := rfl
@[simp] theorem State.setDm_pcStk (m : Memory) : (s.setDm m).pcStk = s.pcStk := rfl
@[simp] theorem State.setDm_loopStk (m : Memory) : (s.setDm m).loopStk = s.loopStk := rfl
@[simp] theorem State.setDm_cntrStk (m : Memory) : (s.setDm m).cntrStk = s.cntrStk := rfl
@[simp] theorem State.setDm_stsStk (m : Memory) : (s.setDm m).stsStk = s.stsStk := rfl
@[simp] theorem State.setDm_pm (m : Memory) : (s.setDm m).pm = s.pm := rfl
@[simp] theorem State.setDm_dm (m : Memory) : (s.setDm m).dm = m := rfl
@[simp] theorem State.setDm_pmDevices (m : Memory) : (s.setDm m).pmDevices = s.pmDevices := rfl
@[simp] theorem State.setDm_dmDevices (m : Memory) : (s.setDm m).dmDevices = s.dmDevices := rfl
@[simp] theorem State.setDm_events (m : Memory) : (s.setDm m).events = s.events := rfl
@[simp] theorem State.setDm_bank (m : Memory) : (s.setDm m).bank = s.bank := rfl
@[simp] theorem State.setDm_otherBank (m : Memory) : (s.setDm m).otherBank = s.otherBank := rfl
@[simp] theorem State.setDm_gen (m : Memory) (n : Fin 8) : (s.setDm m).gen n = s.gen n := rfl

/-! `State.setDevices` -/

@[simp] theorem State.setDevices_bank0 (p d : List Addr) : (s.setDevices p d).bank0 = s.bank0 := rfl
@[simp] theorem State.setDevices_bank1 (p d : List Addr) : (s.setDevices p d).bank1 = s.bank1 := rfl
@[simp] theorem State.setDevices_gens (p d : List Addr) : (s.setDevices p d).gens = s.gens := rfl
@[simp] theorem State.setDevices_pc (p d : List Addr) : (s.setDevices p d).pc = s.pc := rfl
@[simp] theorem State.setDevices_ppc (p d : List Addr) : (s.setDevices p d).ppc = s.ppc := rfl
@[simp] theorem State.setDevices_loopEnd (p d : List Addr) : (s.setDevices p d).loopEnd = s.loopEnd := rfl
@[simp] theorem State.setDevices_loopTerm (p d : List Addr) : (s.setDevices p d).loopTerm = s.loopTerm := rfl
@[simp] theorem State.setDevices_cntr (p d : List Addr) : (s.setDevices p d).cntr = s.cntr := rfl
@[simp] theorem State.setDevices_astat (p d : List Addr) : (s.setDevices p d).astat = s.astat := rfl
@[simp] theorem State.setDevices_mstat (p d : List Addr) : (s.setDevices p d).mstat = s.mstat := rfl
@[simp] theorem State.setDevices_sstat (p d : List Addr) : (s.setDevices p d).sstat = s.sstat := rfl
@[simp] theorem State.setDevices_imask (p d : List Addr) : (s.setDevices p d).imask = s.imask := rfl
@[simp] theorem State.setDevices_icntl (p d : List Addr) : (s.setDevices p d).icntl = s.icntl := rfl
@[simp] theorem State.setDevices_px (p d : List Addr) : (s.setDevices p d).px = s.px := rfl
@[simp] theorem State.setDevices_irqLevel (p d : List Addr) : (s.setDevices p d).irqLevel = s.irqLevel := rfl
@[simp] theorem State.setDevices_irqLatch (p d : List Addr) : (s.setDevices p d).irqLatch = s.irqLatch := rfl
@[simp] theorem State.setDevices_idle (p d : List Addr) : (s.setDevices p d).idle = s.idle := rfl
@[simp] theorem State.setDevices_flagIn (p d : List Addr) : (s.setDevices p d).flagIn = s.flagIn := rfl
@[simp] theorem State.setDevices_flagOut (p d : List Addr) : (s.setDevices p d).flagOut = s.flagOut := rfl
@[simp] theorem State.setDevices_irqExtraCycles (p d : List Addr) : (s.setDevices p d).irqExtraCycles = s.irqExtraCycles := rfl
@[simp] theorem State.setDevices_pcStk (p d : List Addr) : (s.setDevices p d).pcStk = s.pcStk := rfl
@[simp] theorem State.setDevices_loopStk (p d : List Addr) : (s.setDevices p d).loopStk = s.loopStk := rfl
@[simp] theorem State.setDevices_cntrStk (p d : List Addr) : (s.setDevices p d).cntrStk = s.cntrStk := rfl
@[simp] theorem State.setDevices_stsStk (p d : List Addr) : (s.setDevices p d).stsStk = s.stsStk := rfl
@[simp] theorem State.setDevices_pm (p d : List Addr) : (s.setDevices p d).pm = s.pm := rfl
@[simp] theorem State.setDevices_dm (p d : List Addr) : (s.setDevices p d).dm = s.dm := rfl
@[simp] theorem State.setDevices_pmDevices (p d : List Addr) : (s.setDevices p d).pmDevices = p := rfl
@[simp] theorem State.setDevices_dmDevices (p d : List Addr) : (s.setDevices p d).dmDevices = d := rfl
@[simp] theorem State.setDevices_events (p d : List Addr) : (s.setDevices p d).events = s.events := rfl
@[simp] theorem State.setDevices_bank (p d : List Addr) : (s.setDevices p d).bank = s.bank := rfl
@[simp] theorem State.setDevices_otherBank (p d : List Addr) : (s.setDevices p d).otherBank = s.otherBank := rfl
@[simp] theorem State.setDevices_gen (p d : List Addr) (n : Fin 8) : (s.setDevices p d).gen n = s.gen n := rfl

/-! `State.record` -/

@[simp] theorem State.record_bank0 (e : PortEvent) : (s.record e).bank0 = s.bank0 := rfl
@[simp] theorem State.record_bank1 (e : PortEvent) : (s.record e).bank1 = s.bank1 := rfl
@[simp] theorem State.record_gens (e : PortEvent) : (s.record e).gens = s.gens := rfl
@[simp] theorem State.record_pc (e : PortEvent) : (s.record e).pc = s.pc := rfl
@[simp] theorem State.record_ppc (e : PortEvent) : (s.record e).ppc = s.ppc := rfl
@[simp] theorem State.record_loopEnd (e : PortEvent) : (s.record e).loopEnd = s.loopEnd := rfl
@[simp] theorem State.record_loopTerm (e : PortEvent) : (s.record e).loopTerm = s.loopTerm := rfl
@[simp] theorem State.record_cntr (e : PortEvent) : (s.record e).cntr = s.cntr := rfl
@[simp] theorem State.record_astat (e : PortEvent) : (s.record e).astat = s.astat := rfl
@[simp] theorem State.record_mstat (e : PortEvent) : (s.record e).mstat = s.mstat := rfl
@[simp] theorem State.record_sstat (e : PortEvent) : (s.record e).sstat = s.sstat := rfl
@[simp] theorem State.record_imask (e : PortEvent) : (s.record e).imask = s.imask := rfl
@[simp] theorem State.record_icntl (e : PortEvent) : (s.record e).icntl = s.icntl := rfl
@[simp] theorem State.record_px (e : PortEvent) : (s.record e).px = s.px := rfl
@[simp] theorem State.record_irqLevel (e : PortEvent) : (s.record e).irqLevel = s.irqLevel := rfl
@[simp] theorem State.record_irqLatch (e : PortEvent) : (s.record e).irqLatch = s.irqLatch := rfl
@[simp] theorem State.record_idle (e : PortEvent) : (s.record e).idle = s.idle := rfl
@[simp] theorem State.record_flagIn (e : PortEvent) : (s.record e).flagIn = s.flagIn := rfl
@[simp] theorem State.record_flagOut (e : PortEvent) : (s.record e).flagOut = s.flagOut := rfl
@[simp] theorem State.record_irqExtraCycles (e : PortEvent) : (s.record e).irqExtraCycles = s.irqExtraCycles := rfl
@[simp] theorem State.record_pcStk (e : PortEvent) : (s.record e).pcStk = s.pcStk := rfl
@[simp] theorem State.record_loopStk (e : PortEvent) : (s.record e).loopStk = s.loopStk := rfl
@[simp] theorem State.record_cntrStk (e : PortEvent) : (s.record e).cntrStk = s.cntrStk := rfl
@[simp] theorem State.record_stsStk (e : PortEvent) : (s.record e).stsStk = s.stsStk := rfl
@[simp] theorem State.record_pm (e : PortEvent) : (s.record e).pm = s.pm := rfl
@[simp] theorem State.record_dm (e : PortEvent) : (s.record e).dm = s.dm := rfl
@[simp] theorem State.record_pmDevices (e : PortEvent) : (s.record e).pmDevices = s.pmDevices := rfl
@[simp] theorem State.record_dmDevices (e : PortEvent) : (s.record e).dmDevices = s.dmDevices := rfl
@[simp] theorem State.record_events (e : PortEvent) : (s.record e).events = e :: s.events := rfl
@[simp] theorem State.record_bank (e : PortEvent) : (s.record e).bank = s.bank := rfl
@[simp] theorem State.record_otherBank (e : PortEvent) : (s.record e).otherBank = s.otherBank := rfl
@[simp] theorem State.record_gen (e : PortEvent) (n : Fin 8) : (s.record e).gen n = s.gen n := rfl

/-! `State.setPcStk` -/

@[simp] theorem State.setPcStk_bank0 (k : HwStack Addr 4) (v : BitVec 8) : (s.setPcStk k v).bank0 = s.bank0 := rfl
@[simp] theorem State.setPcStk_bank1 (k : HwStack Addr 4) (v : BitVec 8) : (s.setPcStk k v).bank1 = s.bank1 := rfl
@[simp] theorem State.setPcStk_gens (k : HwStack Addr 4) (v : BitVec 8) : (s.setPcStk k v).gens = s.gens := rfl
@[simp] theorem State.setPcStk_pc (k : HwStack Addr 4) (v : BitVec 8) : (s.setPcStk k v).pc = s.pc := rfl
@[simp] theorem State.setPcStk_ppc (k : HwStack Addr 4) (v : BitVec 8) : (s.setPcStk k v).ppc = s.ppc := rfl
@[simp] theorem State.setPcStk_loopEnd (k : HwStack Addr 4) (v : BitVec 8) : (s.setPcStk k v).loopEnd = s.loopEnd := rfl
@[simp] theorem State.setPcStk_loopTerm (k : HwStack Addr 4) (v : BitVec 8) : (s.setPcStk k v).loopTerm = s.loopTerm := rfl
@[simp] theorem State.setPcStk_cntr (k : HwStack Addr 4) (v : BitVec 8) : (s.setPcStk k v).cntr = s.cntr := rfl
@[simp] theorem State.setPcStk_astat (k : HwStack Addr 4) (v : BitVec 8) : (s.setPcStk k v).astat = s.astat := rfl
@[simp] theorem State.setPcStk_mstat (k : HwStack Addr 4) (v : BitVec 8) : (s.setPcStk k v).mstat = s.mstat := rfl
@[simp] theorem State.setPcStk_sstat (k : HwStack Addr 4) (v : BitVec 8) : (s.setPcStk k v).sstat = v := rfl
@[simp] theorem State.setPcStk_imask (k : HwStack Addr 4) (v : BitVec 8) : (s.setPcStk k v).imask = s.imask := rfl
@[simp] theorem State.setPcStk_icntl (k : HwStack Addr 4) (v : BitVec 8) : (s.setPcStk k v).icntl = s.icntl := rfl
@[simp] theorem State.setPcStk_px (k : HwStack Addr 4) (v : BitVec 8) : (s.setPcStk k v).px = s.px := rfl
@[simp] theorem State.setPcStk_irqLevel (k : HwStack Addr 4) (v : BitVec 8) : (s.setPcStk k v).irqLevel = s.irqLevel := rfl
@[simp] theorem State.setPcStk_irqLatch (k : HwStack Addr 4) (v : BitVec 8) : (s.setPcStk k v).irqLatch = s.irqLatch := rfl
@[simp] theorem State.setPcStk_idle (k : HwStack Addr 4) (v : BitVec 8) : (s.setPcStk k v).idle = s.idle := rfl
@[simp] theorem State.setPcStk_flagIn (k : HwStack Addr 4) (v : BitVec 8) : (s.setPcStk k v).flagIn = s.flagIn := rfl
@[simp] theorem State.setPcStk_flagOut (k : HwStack Addr 4) (v : BitVec 8) : (s.setPcStk k v).flagOut = s.flagOut := rfl
@[simp] theorem State.setPcStk_irqExtraCycles (k : HwStack Addr 4) (v : BitVec 8) : (s.setPcStk k v).irqExtraCycles = s.irqExtraCycles := rfl
@[simp] theorem State.setPcStk_pcStk (k : HwStack Addr 4) (v : BitVec 8) : (s.setPcStk k v).pcStk = k := rfl
@[simp] theorem State.setPcStk_loopStk (k : HwStack Addr 4) (v : BitVec 8) : (s.setPcStk k v).loopStk = s.loopStk := rfl
@[simp] theorem State.setPcStk_cntrStk (k : HwStack Addr 4) (v : BitVec 8) : (s.setPcStk k v).cntrStk = s.cntrStk := rfl
@[simp] theorem State.setPcStk_stsStk (k : HwStack Addr 4) (v : BitVec 8) : (s.setPcStk k v).stsStk = s.stsStk := rfl
@[simp] theorem State.setPcStk_pm (k : HwStack Addr 4) (v : BitVec 8) : (s.setPcStk k v).pm = s.pm := rfl
@[simp] theorem State.setPcStk_dm (k : HwStack Addr 4) (v : BitVec 8) : (s.setPcStk k v).dm = s.dm := rfl
@[simp] theorem State.setPcStk_pmDevices (k : HwStack Addr 4) (v : BitVec 8) : (s.setPcStk k v).pmDevices = s.pmDevices := rfl
@[simp] theorem State.setPcStk_dmDevices (k : HwStack Addr 4) (v : BitVec 8) : (s.setPcStk k v).dmDevices = s.dmDevices := rfl
@[simp] theorem State.setPcStk_events (k : HwStack Addr 4) (v : BitVec 8) : (s.setPcStk k v).events = s.events := rfl
@[simp] theorem State.setPcStk_bank (k : HwStack Addr 4) (v : BitVec 8) : (s.setPcStk k v).bank = s.bank := rfl
@[simp] theorem State.setPcStk_otherBank (k : HwStack Addr 4) (v : BitVec 8) : (s.setPcStk k v).otherBank = s.otherBank := rfl
@[simp] theorem State.setPcStk_gen (k : HwStack Addr 4) (v : BitVec 8) (n : Fin 8) : (s.setPcStk k v).gen n = s.gen n := rfl

/-! `State.setLoopStk` -/

@[simp] theorem State.setLoopStk_bank0 (k : HwStack (BitVec 32) 2) (v : BitVec 8) : (s.setLoopStk k v).bank0 = s.bank0 := rfl
@[simp] theorem State.setLoopStk_bank1 (k : HwStack (BitVec 32) 2) (v : BitVec 8) : (s.setLoopStk k v).bank1 = s.bank1 := rfl
@[simp] theorem State.setLoopStk_gens (k : HwStack (BitVec 32) 2) (v : BitVec 8) : (s.setLoopStk k v).gens = s.gens := rfl
@[simp] theorem State.setLoopStk_pc (k : HwStack (BitVec 32) 2) (v : BitVec 8) : (s.setLoopStk k v).pc = s.pc := rfl
@[simp] theorem State.setLoopStk_ppc (k : HwStack (BitVec 32) 2) (v : BitVec 8) : (s.setLoopStk k v).ppc = s.ppc := rfl
@[simp] theorem State.setLoopStk_loopEnd (k : HwStack (BitVec 32) 2) (v : BitVec 8) : (s.setLoopStk k v).loopEnd = s.loopEnd := rfl
@[simp] theorem State.setLoopStk_loopTerm (k : HwStack (BitVec 32) 2) (v : BitVec 8) : (s.setLoopStk k v).loopTerm = s.loopTerm := rfl
@[simp] theorem State.setLoopStk_cntr (k : HwStack (BitVec 32) 2) (v : BitVec 8) : (s.setLoopStk k v).cntr = s.cntr := rfl
@[simp] theorem State.setLoopStk_astat (k : HwStack (BitVec 32) 2) (v : BitVec 8) : (s.setLoopStk k v).astat = s.astat := rfl
@[simp] theorem State.setLoopStk_mstat (k : HwStack (BitVec 32) 2) (v : BitVec 8) : (s.setLoopStk k v).mstat = s.mstat := rfl
@[simp] theorem State.setLoopStk_sstat (k : HwStack (BitVec 32) 2) (v : BitVec 8) : (s.setLoopStk k v).sstat = v := rfl
@[simp] theorem State.setLoopStk_imask (k : HwStack (BitVec 32) 2) (v : BitVec 8) : (s.setLoopStk k v).imask = s.imask := rfl
@[simp] theorem State.setLoopStk_icntl (k : HwStack (BitVec 32) 2) (v : BitVec 8) : (s.setLoopStk k v).icntl = s.icntl := rfl
@[simp] theorem State.setLoopStk_px (k : HwStack (BitVec 32) 2) (v : BitVec 8) : (s.setLoopStk k v).px = s.px := rfl
@[simp] theorem State.setLoopStk_irqLevel (k : HwStack (BitVec 32) 2) (v : BitVec 8) : (s.setLoopStk k v).irqLevel = s.irqLevel := rfl
@[simp] theorem State.setLoopStk_irqLatch (k : HwStack (BitVec 32) 2) (v : BitVec 8) : (s.setLoopStk k v).irqLatch = s.irqLatch := rfl
@[simp] theorem State.setLoopStk_idle (k : HwStack (BitVec 32) 2) (v : BitVec 8) : (s.setLoopStk k v).idle = s.idle := rfl
@[simp] theorem State.setLoopStk_flagIn (k : HwStack (BitVec 32) 2) (v : BitVec 8) : (s.setLoopStk k v).flagIn = s.flagIn := rfl
@[simp] theorem State.setLoopStk_flagOut (k : HwStack (BitVec 32) 2) (v : BitVec 8) : (s.setLoopStk k v).flagOut = s.flagOut := rfl
@[simp] theorem State.setLoopStk_irqExtraCycles (k : HwStack (BitVec 32) 2) (v : BitVec 8) : (s.setLoopStk k v).irqExtraCycles = s.irqExtraCycles := rfl
@[simp] theorem State.setLoopStk_pcStk (k : HwStack (BitVec 32) 2) (v : BitVec 8) : (s.setLoopStk k v).pcStk = s.pcStk := rfl
@[simp] theorem State.setLoopStk_loopStk (k : HwStack (BitVec 32) 2) (v : BitVec 8) : (s.setLoopStk k v).loopStk = k := rfl
@[simp] theorem State.setLoopStk_cntrStk (k : HwStack (BitVec 32) 2) (v : BitVec 8) : (s.setLoopStk k v).cntrStk = s.cntrStk := rfl
@[simp] theorem State.setLoopStk_stsStk (k : HwStack (BitVec 32) 2) (v : BitVec 8) : (s.setLoopStk k v).stsStk = s.stsStk := rfl
@[simp] theorem State.setLoopStk_pm (k : HwStack (BitVec 32) 2) (v : BitVec 8) : (s.setLoopStk k v).pm = s.pm := rfl
@[simp] theorem State.setLoopStk_dm (k : HwStack (BitVec 32) 2) (v : BitVec 8) : (s.setLoopStk k v).dm = s.dm := rfl
@[simp] theorem State.setLoopStk_pmDevices (k : HwStack (BitVec 32) 2) (v : BitVec 8) : (s.setLoopStk k v).pmDevices = s.pmDevices := rfl
@[simp] theorem State.setLoopStk_dmDevices (k : HwStack (BitVec 32) 2) (v : BitVec 8) : (s.setLoopStk k v).dmDevices = s.dmDevices := rfl
@[simp] theorem State.setLoopStk_events (k : HwStack (BitVec 32) 2) (v : BitVec 8) : (s.setLoopStk k v).events = s.events := rfl
@[simp] theorem State.setLoopStk_bank (k : HwStack (BitVec 32) 2) (v : BitVec 8) : (s.setLoopStk k v).bank = s.bank := rfl
@[simp] theorem State.setLoopStk_otherBank (k : HwStack (BitVec 32) 2) (v : BitVec 8) : (s.setLoopStk k v).otherBank = s.otherBank := rfl
@[simp] theorem State.setLoopStk_gen (k : HwStack (BitVec 32) 2) (v : BitVec 8) (n : Fin 8) : (s.setLoopStk k v).gen n = s.gen n := rfl

/-! `State.setCntrStk` -/

@[simp] theorem State.setCntrStk_bank0 (k : HwStack Word 2) (v : BitVec 8) : (s.setCntrStk k v).bank0 = s.bank0 := rfl
@[simp] theorem State.setCntrStk_bank1 (k : HwStack Word 2) (v : BitVec 8) : (s.setCntrStk k v).bank1 = s.bank1 := rfl
@[simp] theorem State.setCntrStk_gens (k : HwStack Word 2) (v : BitVec 8) : (s.setCntrStk k v).gens = s.gens := rfl
@[simp] theorem State.setCntrStk_pc (k : HwStack Word 2) (v : BitVec 8) : (s.setCntrStk k v).pc = s.pc := rfl
@[simp] theorem State.setCntrStk_ppc (k : HwStack Word 2) (v : BitVec 8) : (s.setCntrStk k v).ppc = s.ppc := rfl
@[simp] theorem State.setCntrStk_loopEnd (k : HwStack Word 2) (v : BitVec 8) : (s.setCntrStk k v).loopEnd = s.loopEnd := rfl
@[simp] theorem State.setCntrStk_loopTerm (k : HwStack Word 2) (v : BitVec 8) : (s.setCntrStk k v).loopTerm = s.loopTerm := rfl
@[simp] theorem State.setCntrStk_cntr (k : HwStack Word 2) (v : BitVec 8) : (s.setCntrStk k v).cntr = s.cntr := rfl
@[simp] theorem State.setCntrStk_astat (k : HwStack Word 2) (v : BitVec 8) : (s.setCntrStk k v).astat = s.astat := rfl
@[simp] theorem State.setCntrStk_mstat (k : HwStack Word 2) (v : BitVec 8) : (s.setCntrStk k v).mstat = s.mstat := rfl
@[simp] theorem State.setCntrStk_sstat (k : HwStack Word 2) (v : BitVec 8) : (s.setCntrStk k v).sstat = v := rfl
@[simp] theorem State.setCntrStk_imask (k : HwStack Word 2) (v : BitVec 8) : (s.setCntrStk k v).imask = s.imask := rfl
@[simp] theorem State.setCntrStk_icntl (k : HwStack Word 2) (v : BitVec 8) : (s.setCntrStk k v).icntl = s.icntl := rfl
@[simp] theorem State.setCntrStk_px (k : HwStack Word 2) (v : BitVec 8) : (s.setCntrStk k v).px = s.px := rfl
@[simp] theorem State.setCntrStk_irqLevel (k : HwStack Word 2) (v : BitVec 8) : (s.setCntrStk k v).irqLevel = s.irqLevel := rfl
@[simp] theorem State.setCntrStk_irqLatch (k : HwStack Word 2) (v : BitVec 8) : (s.setCntrStk k v).irqLatch = s.irqLatch := rfl
@[simp] theorem State.setCntrStk_idle (k : HwStack Word 2) (v : BitVec 8) : (s.setCntrStk k v).idle = s.idle := rfl
@[simp] theorem State.setCntrStk_flagIn (k : HwStack Word 2) (v : BitVec 8) : (s.setCntrStk k v).flagIn = s.flagIn := rfl
@[simp] theorem State.setCntrStk_flagOut (k : HwStack Word 2) (v : BitVec 8) : (s.setCntrStk k v).flagOut = s.flagOut := rfl
@[simp] theorem State.setCntrStk_irqExtraCycles (k : HwStack Word 2) (v : BitVec 8) : (s.setCntrStk k v).irqExtraCycles = s.irqExtraCycles := rfl
@[simp] theorem State.setCntrStk_pcStk (k : HwStack Word 2) (v : BitVec 8) : (s.setCntrStk k v).pcStk = s.pcStk := rfl
@[simp] theorem State.setCntrStk_loopStk (k : HwStack Word 2) (v : BitVec 8) : (s.setCntrStk k v).loopStk = s.loopStk := rfl
@[simp] theorem State.setCntrStk_cntrStk (k : HwStack Word 2) (v : BitVec 8) : (s.setCntrStk k v).cntrStk = k := rfl
@[simp] theorem State.setCntrStk_stsStk (k : HwStack Word 2) (v : BitVec 8) : (s.setCntrStk k v).stsStk = s.stsStk := rfl
@[simp] theorem State.setCntrStk_pm (k : HwStack Word 2) (v : BitVec 8) : (s.setCntrStk k v).pm = s.pm := rfl
@[simp] theorem State.setCntrStk_dm (k : HwStack Word 2) (v : BitVec 8) : (s.setCntrStk k v).dm = s.dm := rfl
@[simp] theorem State.setCntrStk_pmDevices (k : HwStack Word 2) (v : BitVec 8) : (s.setCntrStk k v).pmDevices = s.pmDevices := rfl
@[simp] theorem State.setCntrStk_dmDevices (k : HwStack Word 2) (v : BitVec 8) : (s.setCntrStk k v).dmDevices = s.dmDevices := rfl
@[simp] theorem State.setCntrStk_events (k : HwStack Word 2) (v : BitVec 8) : (s.setCntrStk k v).events = s.events := rfl
@[simp] theorem State.setCntrStk_bank (k : HwStack Word 2) (v : BitVec 8) : (s.setCntrStk k v).bank = s.bank := rfl
@[simp] theorem State.setCntrStk_otherBank (k : HwStack Word 2) (v : BitVec 8) : (s.setCntrStk k v).otherBank = s.otherBank := rfl
@[simp] theorem State.setCntrStk_gen (k : HwStack Word 2) (v : BitVec 8) (n : Fin 8) : (s.setCntrStk k v).gen n = s.gen n := rfl

/-! `State.setStsStk` -/

@[simp] theorem State.setStsStk_bank0 (k : HwStack StsCell 2) (v : BitVec 8) : (s.setStsStk k v).bank0 = s.bank0 := rfl
@[simp] theorem State.setStsStk_bank1 (k : HwStack StsCell 2) (v : BitVec 8) : (s.setStsStk k v).bank1 = s.bank1 := rfl
@[simp] theorem State.setStsStk_gens (k : HwStack StsCell 2) (v : BitVec 8) : (s.setStsStk k v).gens = s.gens := rfl
@[simp] theorem State.setStsStk_pc (k : HwStack StsCell 2) (v : BitVec 8) : (s.setStsStk k v).pc = s.pc := rfl
@[simp] theorem State.setStsStk_ppc (k : HwStack StsCell 2) (v : BitVec 8) : (s.setStsStk k v).ppc = s.ppc := rfl
@[simp] theorem State.setStsStk_loopEnd (k : HwStack StsCell 2) (v : BitVec 8) : (s.setStsStk k v).loopEnd = s.loopEnd := rfl
@[simp] theorem State.setStsStk_loopTerm (k : HwStack StsCell 2) (v : BitVec 8) : (s.setStsStk k v).loopTerm = s.loopTerm := rfl
@[simp] theorem State.setStsStk_cntr (k : HwStack StsCell 2) (v : BitVec 8) : (s.setStsStk k v).cntr = s.cntr := rfl
@[simp] theorem State.setStsStk_astat (k : HwStack StsCell 2) (v : BitVec 8) : (s.setStsStk k v).astat = s.astat := rfl
@[simp] theorem State.setStsStk_mstat (k : HwStack StsCell 2) (v : BitVec 8) : (s.setStsStk k v).mstat = s.mstat := rfl
@[simp] theorem State.setStsStk_sstat (k : HwStack StsCell 2) (v : BitVec 8) : (s.setStsStk k v).sstat = v := rfl
@[simp] theorem State.setStsStk_imask (k : HwStack StsCell 2) (v : BitVec 8) : (s.setStsStk k v).imask = s.imask := rfl
@[simp] theorem State.setStsStk_icntl (k : HwStack StsCell 2) (v : BitVec 8) : (s.setStsStk k v).icntl = s.icntl := rfl
@[simp] theorem State.setStsStk_px (k : HwStack StsCell 2) (v : BitVec 8) : (s.setStsStk k v).px = s.px := rfl
@[simp] theorem State.setStsStk_irqLevel (k : HwStack StsCell 2) (v : BitVec 8) : (s.setStsStk k v).irqLevel = s.irqLevel := rfl
@[simp] theorem State.setStsStk_irqLatch (k : HwStack StsCell 2) (v : BitVec 8) : (s.setStsStk k v).irqLatch = s.irqLatch := rfl
@[simp] theorem State.setStsStk_idle (k : HwStack StsCell 2) (v : BitVec 8) : (s.setStsStk k v).idle = s.idle := rfl
@[simp] theorem State.setStsStk_flagIn (k : HwStack StsCell 2) (v : BitVec 8) : (s.setStsStk k v).flagIn = s.flagIn := rfl
@[simp] theorem State.setStsStk_flagOut (k : HwStack StsCell 2) (v : BitVec 8) : (s.setStsStk k v).flagOut = s.flagOut := rfl
@[simp] theorem State.setStsStk_irqExtraCycles (k : HwStack StsCell 2) (v : BitVec 8) : (s.setStsStk k v).irqExtraCycles = s.irqExtraCycles := rfl
@[simp] theorem State.setStsStk_pcStk (k : HwStack StsCell 2) (v : BitVec 8) : (s.setStsStk k v).pcStk = s.pcStk := rfl
@[simp] theorem State.setStsStk_loopStk (k : HwStack StsCell 2) (v : BitVec 8) : (s.setStsStk k v).loopStk = s.loopStk := rfl
@[simp] theorem State.setStsStk_cntrStk (k : HwStack StsCell 2) (v : BitVec 8) : (s.setStsStk k v).cntrStk = s.cntrStk := rfl
@[simp] theorem State.setStsStk_stsStk (k : HwStack StsCell 2) (v : BitVec 8) : (s.setStsStk k v).stsStk = k := rfl
@[simp] theorem State.setStsStk_pm (k : HwStack StsCell 2) (v : BitVec 8) : (s.setStsStk k v).pm = s.pm := rfl
@[simp] theorem State.setStsStk_dm (k : HwStack StsCell 2) (v : BitVec 8) : (s.setStsStk k v).dm = s.dm := rfl
@[simp] theorem State.setStsStk_pmDevices (k : HwStack StsCell 2) (v : BitVec 8) : (s.setStsStk k v).pmDevices = s.pmDevices := rfl
@[simp] theorem State.setStsStk_dmDevices (k : HwStack StsCell 2) (v : BitVec 8) : (s.setStsStk k v).dmDevices = s.dmDevices := rfl
@[simp] theorem State.setStsStk_events (k : HwStack StsCell 2) (v : BitVec 8) : (s.setStsStk k v).events = s.events := rfl
@[simp] theorem State.setStsStk_bank (k : HwStack StsCell 2) (v : BitVec 8) : (s.setStsStk k v).bank = s.bank := rfl
@[simp] theorem State.setStsStk_otherBank (k : HwStack StsCell 2) (v : BitVec 8) : (s.setStsStk k v).otherBank = s.otherBank := rfl
@[simp] theorem State.setStsStk_gen (k : HwStack StsCell 2) (v : BitVec 8) (n : Fin 8) : (s.setStsStk k v).gen n = s.gen n := rfl

/-! `State.setGen` -/

@[simp] theorem State.setGen_bank0 (n : Fin 8) (g : Gen) : (s.setGen n g).bank0 = s.bank0 := rfl
@[simp] theorem State.setGen_bank1 (n : Fin 8) (g : Gen) : (s.setGen n g).bank1 = s.bank1 := rfl
@[simp] theorem State.setGen_gens (n : Fin 8) (g : Gen) : (s.setGen n g).gens = s.gens.set n g := rfl
@[simp] theorem State.setGen_pc (n : Fin 8) (g : Gen) : (s.setGen n g).pc = s.pc := rfl
@[simp] theorem State.setGen_ppc (n : Fin 8) (g : Gen) : (s.setGen n g).ppc = s.ppc := rfl
@[simp] theorem State.setGen_loopEnd (n : Fin 8) (g : Gen) : (s.setGen n g).loopEnd = s.loopEnd := rfl
@[simp] theorem State.setGen_loopTerm (n : Fin 8) (g : Gen) : (s.setGen n g).loopTerm = s.loopTerm := rfl
@[simp] theorem State.setGen_cntr (n : Fin 8) (g : Gen) : (s.setGen n g).cntr = s.cntr := rfl
@[simp] theorem State.setGen_astat (n : Fin 8) (g : Gen) : (s.setGen n g).astat = s.astat := rfl
@[simp] theorem State.setGen_mstat (n : Fin 8) (g : Gen) : (s.setGen n g).mstat = s.mstat := rfl
@[simp] theorem State.setGen_sstat (n : Fin 8) (g : Gen) : (s.setGen n g).sstat = s.sstat := rfl
@[simp] theorem State.setGen_imask (n : Fin 8) (g : Gen) : (s.setGen n g).imask = s.imask := rfl
@[simp] theorem State.setGen_icntl (n : Fin 8) (g : Gen) : (s.setGen n g).icntl = s.icntl := rfl
@[simp] theorem State.setGen_px (n : Fin 8) (g : Gen) : (s.setGen n g).px = s.px := rfl
@[simp] theorem State.setGen_irqLevel (n : Fin 8) (g : Gen) : (s.setGen n g).irqLevel = s.irqLevel := rfl
@[simp] theorem State.setGen_irqLatch (n : Fin 8) (g : Gen) : (s.setGen n g).irqLatch = s.irqLatch := rfl
@[simp] theorem State.setGen_idle (n : Fin 8) (g : Gen) : (s.setGen n g).idle = s.idle := rfl
@[simp] theorem State.setGen_flagIn (n : Fin 8) (g : Gen) : (s.setGen n g).flagIn = s.flagIn := rfl
@[simp] theorem State.setGen_flagOut (n : Fin 8) (g : Gen) : (s.setGen n g).flagOut = s.flagOut := rfl
@[simp] theorem State.setGen_irqExtraCycles (n : Fin 8) (g : Gen) : (s.setGen n g).irqExtraCycles = s.irqExtraCycles := rfl
@[simp] theorem State.setGen_pcStk (n : Fin 8) (g : Gen) : (s.setGen n g).pcStk = s.pcStk := rfl
@[simp] theorem State.setGen_loopStk (n : Fin 8) (g : Gen) : (s.setGen n g).loopStk = s.loopStk := rfl
@[simp] theorem State.setGen_cntrStk (n : Fin 8) (g : Gen) : (s.setGen n g).cntrStk = s.cntrStk := rfl
@[simp] theorem State.setGen_stsStk (n : Fin 8) (g : Gen) : (s.setGen n g).stsStk = s.stsStk := rfl
@[simp] theorem State.setGen_pm (n : Fin 8) (g : Gen) : (s.setGen n g).pm = s.pm := rfl
@[simp] theorem State.setGen_dm (n : Fin 8) (g : Gen) : (s.setGen n g).dm = s.dm := rfl
@[simp] theorem State.setGen_pmDevices (n : Fin 8) (g : Gen) : (s.setGen n g).pmDevices = s.pmDevices := rfl
@[simp] theorem State.setGen_dmDevices (n : Fin 8) (g : Gen) : (s.setGen n g).dmDevices = s.dmDevices := rfl
@[simp] theorem State.setGen_events (n : Fin 8) (g : Gen) : (s.setGen n g).events = s.events := rfl
@[simp] theorem State.setGen_bank (n : Fin 8) (g : Gen) : (s.setGen n g).bank = s.bank := rfl
@[simp] theorem State.setGen_otherBank (n : Fin 8) (g : Gen) : (s.setGen n g).otherBank = s.otherBank := rfl

theorem State.setGen_gen (n k : Fin 8) (g : Gen) :
    (s.setGen n g).gen k = if k = n then g else s.gen k := by
  simp only [State.gen, State.setGen_gens, Fin.getElem_fin, Vector.getElem_set, Fin.ext_iff, eq_comm]

@[simp] theorem State.setGen_gen_same (n : Fin 8) (g : Gen) : (s.setGen n g).gen n = g := by
  simp [State.setGen_gen]

theorem State.setGen_gen_other {n k : Fin 8} (h : k ≠ n) (g : Gen) : (s.setGen n g).gen k = s.gen k := by
  simp [State.setGen_gen, h]

/-! `State.setBank` -/

@[simp] theorem State.setBank_gens (b : Bank) : (s.setBank b).gens = s.gens := by unfold State.setBank; split <;> rfl
@[simp] theorem State.setBank_pc (b : Bank) : (s.setBank b).pc = s.pc := by unfold State.setBank; split <;> rfl
@[simp] theorem State.setBank_ppc (b : Bank) : (s.setBank b).ppc = s.ppc := by unfold State.setBank; split <;> rfl
@[simp] theorem State.setBank_loopEnd (b : Bank) : (s.setBank b).loopEnd = s.loopEnd := by unfold State.setBank; split <;> rfl
@[simp] theorem State.setBank_loopTerm (b : Bank) : (s.setBank b).loopTerm = s.loopTerm := by unfold State.setBank; split <;> rfl
@[simp] theorem State.setBank_cntr (b : Bank) : (s.setBank b).cntr = s.cntr := by unfold State.setBank; split <;> rfl
@[simp] theorem State.setBank_astat (b : Bank) : (s.setBank b).astat = s.astat := by unfold State.setBank; split <;> rfl
@[simp] theorem State.setBank_mstat (b : Bank) : (s.setBank b).mstat = s.mstat := by unfold State.setBank; split <;> rfl
@[simp] theorem State.setBank_sstat (b : Bank) : (s.setBank b).sstat = s.sstat := by unfold State.setBank; split <;> rfl
@[simp] theorem State.setBank_imask (b : Bank) : (s.setBank b).imask = s.imask := by unfold State.setBank; split <;> rfl
@[simp] theorem State.setBank_icntl (b : Bank) : (s.setBank b).icntl = s.icntl := by unfold State.setBank; split <;> rfl
@[simp] theorem State.setBank_px (b : Bank) : (s.setBank b).px = s.px := by unfold State.setBank; split <;> rfl
@[simp] theorem State.setBank_irqLevel (b : Bank) : (s.setBank b).irqLevel = s.irqLevel := by unfold State.setBank; split <;> rfl
@[simp] theorem State.setBank_irqLatch (b : Bank) : (s.setBank b).irqLatch = s.irqLatch := by unfold State.setBank; split <;> rfl
@[simp] theorem State.setBank_idle (b : Bank) : (s.setBank b).idle = s.idle := by unfold State.setBank; split <;> rfl
@[simp] theorem State.setBank_flagIn (b : Bank) : (s.setBank b).flagIn = s.flagIn := by unfold State.setBank; split <;> rfl
@[simp] theorem State.setBank_flagOut (b : Bank) : (s.setBank b).flagOut = s.flagOut := by unfold State.setBank; split <;> rfl
@[simp] theorem State.setBank_irqExtraCycles (b : Bank) : (s.setBank b).irqExtraCycles = s.irqExtraCycles := by unfold State.setBank; split <;> rfl
@[simp] theorem State.setBank_pcStk (b : Bank) : (s.setBank b).pcStk = s.pcStk := by unfold State.setBank; split <;> rfl
@[simp] theorem State.setBank_loopStk (b : Bank) : (s.setBank b).loopStk = s.loopStk := by unfold State.setBank; split <;> rfl
@[simp] theorem State.setBank_cntrStk (b : Bank) : (s.setBank b).cntrStk = s.cntrStk := by unfold State.setBank; split <;> rfl
@[simp] theorem State.setBank_stsStk (b : Bank) : (s.setBank b).stsStk = s.stsStk := by unfold State.setBank; split <;> rfl
@[simp] theorem State.setBank_pm (b : Bank) : (s.setBank b).pm = s.pm := by unfold State.setBank; split <;> rfl
@[simp] theorem State.setBank_dm (b : Bank) : (s.setBank b).dm = s.dm := by unfold State.setBank; split <;> rfl
@[simp] theorem State.setBank_pmDevices (b : Bank) : (s.setBank b).pmDevices = s.pmDevices := by unfold State.setBank; split <;> rfl
@[simp] theorem State.setBank_dmDevices (b : Bank) : (s.setBank b).dmDevices = s.dmDevices := by unfold State.setBank; split <;> rfl
@[simp] theorem State.setBank_events (b : Bank) : (s.setBank b).events = s.events := by unfold State.setBank; split <;> rfl
@[simp] theorem State.setBank_gen (b : Bank) (n : Fin 8) : (s.setBank b).gen n = s.gen n := by
  unfold State.setBank; split <;> rfl
@[simp] theorem State.setBank_bank (b : Bank) : (s.setBank b).bank = b := by
  unfold State.setBank State.bank; split <;> simp_all
@[simp] theorem State.setBank_otherBank (b : Bank) : (s.setBank b).otherBank = s.otherBank := by
  unfold State.setBank State.otherBank; split <;> simp_all
@[simp] theorem State.setBank_self : s.setBank s.bank = s := by
  unfold State.setBank State.bank; split <;> rfl
@[simp] theorem State.setBank_setBank (a b : Bank) : (s.setBank a).setBank b = s.setBank b := by
  unfold State.setBank; split <;> simp_all
theorem State.setBank_bank0 (b : Bank) :
    (s.setBank b).bank0 = if s.mstat.getLsbD Mode.bank then s.bank0 else b := by
  unfold State.setBank; split <;> simp_all
theorem State.setBank_bank1 (b : Bank) :
    (s.setBank b).bank1 = if s.mstat.getLsbD Mode.bank then b else s.bank1 := by
  unfold State.setBank; split <;> simp_all

/-! The port: what an access changes -/

@[simp] theorem pmWrite_bank0 (a : Addr) (w : OpWord) : (pmWrite a w s).bank0 = s.bank0 := by unfold pmWrite; split <;> rfl
@[simp] theorem pmWrite_bank1 (a : Addr) (w : OpWord) : (pmWrite a w s).bank1 = s.bank1 := by unfold pmWrite; split <;> rfl
@[simp] theorem pmWrite_gens (a : Addr) (w : OpWord) : (pmWrite a w s).gens = s.gens := by unfold pmWrite; split <;> rfl
@[simp] theorem pmWrite_pc (a : Addr) (w : OpWord) : (pmWrite a w s).pc = s.pc := by unfold pmWrite; split <;> rfl
@[simp] theorem pmWrite_ppc (a : Addr) (w : OpWord) : (pmWrite a w s).ppc = s.ppc := by unfold pmWrite; split <;> rfl
@[simp] theorem pmWrite_loopEnd (a : Addr) (w : OpWord) : (pmWrite a w s).loopEnd = s.loopEnd := by unfold pmWrite; split <;> rfl
@[simp] theorem pmWrite_loopTerm (a : Addr) (w : OpWord) : (pmWrite a w s).loopTerm = s.loopTerm := by unfold pmWrite; split <;> rfl
@[simp] theorem pmWrite_cntr (a : Addr) (w : OpWord) : (pmWrite a w s).cntr = s.cntr := by unfold pmWrite; split <;> rfl
@[simp] theorem pmWrite_astat (a : Addr) (w : OpWord) : (pmWrite a w s).astat = s.astat := by unfold pmWrite; split <;> rfl
@[simp] theorem pmWrite_mstat (a : Addr) (w : OpWord) : (pmWrite a w s).mstat = s.mstat := by unfold pmWrite; split <;> rfl
@[simp] theorem pmWrite_sstat (a : Addr) (w : OpWord) : (pmWrite a w s).sstat = s.sstat := by unfold pmWrite; split <;> rfl
@[simp] theorem pmWrite_imask (a : Addr) (w : OpWord) : (pmWrite a w s).imask = s.imask := by unfold pmWrite; split <;> rfl
@[simp] theorem pmWrite_icntl (a : Addr) (w : OpWord) : (pmWrite a w s).icntl = s.icntl := by unfold pmWrite; split <;> rfl
@[simp] theorem pmWrite_px (a : Addr) (w : OpWord) : (pmWrite a w s).px = s.px := by unfold pmWrite; split <;> rfl
@[simp] theorem pmWrite_irqLevel (a : Addr) (w : OpWord) : (pmWrite a w s).irqLevel = s.irqLevel := by unfold pmWrite; split <;> rfl
@[simp] theorem pmWrite_irqLatch (a : Addr) (w : OpWord) : (pmWrite a w s).irqLatch = s.irqLatch := by unfold pmWrite; split <;> rfl
@[simp] theorem pmWrite_idle (a : Addr) (w : OpWord) : (pmWrite a w s).idle = s.idle := by unfold pmWrite; split <;> rfl
@[simp] theorem pmWrite_flagIn (a : Addr) (w : OpWord) : (pmWrite a w s).flagIn = s.flagIn := by unfold pmWrite; split <;> rfl
@[simp] theorem pmWrite_flagOut (a : Addr) (w : OpWord) : (pmWrite a w s).flagOut = s.flagOut := by unfold pmWrite; split <;> rfl
@[simp] theorem pmWrite_irqExtraCycles (a : Addr) (w : OpWord) : (pmWrite a w s).irqExtraCycles = s.irqExtraCycles := by unfold pmWrite; split <;> rfl
@[simp] theorem pmWrite_pcStk (a : Addr) (w : OpWord) : (pmWrite a w s).pcStk = s.pcStk := by unfold pmWrite; split <;> rfl
@[simp] theorem pmWrite_loopStk (a : Addr) (w : OpWord) : (pmWrite a w s).loopStk = s.loopStk := by unfold pmWrite; split <;> rfl
@[simp] theorem pmWrite_cntrStk (a : Addr) (w : OpWord) : (pmWrite a w s).cntrStk = s.cntrStk := by unfold pmWrite; split <;> rfl
@[simp] theorem pmWrite_stsStk (a : Addr) (w : OpWord) : (pmWrite a w s).stsStk = s.stsStk := by unfold pmWrite; split <;> rfl
@[simp] theorem pmWrite_dm (a : Addr) (w : OpWord) : (pmWrite a w s).dm = s.dm := by unfold pmWrite; split <;> rfl
@[simp] theorem pmWrite_pmDevices (a : Addr) (w : OpWord) : (pmWrite a w s).pmDevices = s.pmDevices := by unfold pmWrite; split <;> rfl
@[simp] theorem pmWrite_dmDevices (a : Addr) (w : OpWord) : (pmWrite a w s).dmDevices = s.dmDevices := by unfold pmWrite; split <;> rfl
@[simp] theorem pmWrite_bank (a : Addr) (w : OpWord) : (pmWrite a w s).bank = s.bank := by unfold pmWrite; split <;> rfl
@[simp] theorem pmWrite_otherBank (a : Addr) (w : OpWord) : (pmWrite a w s).otherBank = s.otherBank := by unfold pmWrite; split <;> rfl
@[simp] theorem pmWrite_gen (a : Addr) (w : OpWord) (n : Fin 8) : (pmWrite a w s).gen n = s.gen n := by unfold pmWrite; split <;> rfl

@[simp] theorem dmWrite_bank0 (a : Addr) (v : Word) : (dmWrite a v s).bank0 = s.bank0 := by unfold dmWrite; split <;> rfl
@[simp] theorem dmWrite_bank1 (a : Addr) (v : Word) : (dmWrite a v s).bank1 = s.bank1 := by unfold dmWrite; split <;> rfl
@[simp] theorem dmWrite_gens (a : Addr) (v : Word) : (dmWrite a v s).gens = s.gens := by unfold dmWrite; split <;> rfl
@[simp] theorem dmWrite_pc (a : Addr) (v : Word) : (dmWrite a v s).pc = s.pc := by unfold dmWrite; split <;> rfl
@[simp] theorem dmWrite_ppc (a : Addr) (v : Word) : (dmWrite a v s).ppc = s.ppc := by unfold dmWrite; split <;> rfl
@[simp] theorem dmWrite_loopEnd (a : Addr) (v : Word) : (dmWrite a v s).loopEnd = s.loopEnd := by unfold dmWrite; split <;> rfl
@[simp] theorem dmWrite_loopTerm (a : Addr) (v : Word) : (dmWrite a v s).loopTerm = s.loopTerm := by unfold dmWrite; split <;> rfl
@[simp] theorem dmWrite_cntr (a : Addr) (v : Word) : (dmWrite a v s).cntr = s.cntr := by unfold dmWrite; split <;> rfl
@[simp] theorem dmWrite_astat (a : Addr) (v : Word) : (dmWrite a v s).astat = s.astat := by unfold dmWrite; split <;> rfl
@[simp] theorem dmWrite_mstat (a : Addr) (v : Word) : (dmWrite a v s).mstat = s.mstat := by unfold dmWrite; split <;> rfl
@[simp] theorem dmWrite_sstat (a : Addr) (v : Word) : (dmWrite a v s).sstat = s.sstat := by unfold dmWrite; split <;> rfl
@[simp] theorem dmWrite_imask (a : Addr) (v : Word) : (dmWrite a v s).imask = s.imask := by unfold dmWrite; split <;> rfl
@[simp] theorem dmWrite_icntl (a : Addr) (v : Word) : (dmWrite a v s).icntl = s.icntl := by unfold dmWrite; split <;> rfl
@[simp] theorem dmWrite_px (a : Addr) (v : Word) : (dmWrite a v s).px = s.px := by unfold dmWrite; split <;> rfl
@[simp] theorem dmWrite_irqLevel (a : Addr) (v : Word) : (dmWrite a v s).irqLevel = s.irqLevel := by unfold dmWrite; split <;> rfl
@[simp] theorem dmWrite_irqLatch (a : Addr) (v : Word) : (dmWrite a v s).irqLatch = s.irqLatch := by unfold dmWrite; split <;> rfl
@[simp] theorem dmWrite_idle (a : Addr) (v : Word) : (dmWrite a v s).idle = s.idle := by unfold dmWrite; split <;> rfl
@[simp] theorem dmWrite_flagIn (a : Addr) (v : Word) : (dmWrite a v s).flagIn = s.flagIn := by unfold dmWrite; split <;> rfl
@[simp] theorem dmWrite_flagOut (a : Addr) (v : Word) : (dmWrite a v s).flagOut = s.flagOut := by unfold dmWrite; split <;> rfl
@[simp] theorem dmWrite_irqExtraCycles (a : Addr) (v : Word) : (dmWrite a v s).irqExtraCycles = s.irqExtraCycles := by unfold dmWrite; split <;> rfl
@[simp] theorem dmWrite_pcStk (a : Addr) (v : Word) : (dmWrite a v s).pcStk = s.pcStk := by unfold dmWrite; split <;> rfl
@[simp] theorem dmWrite_loopStk (a : Addr) (v : Word) : (dmWrite a v s).loopStk = s.loopStk := by unfold dmWrite; split <;> rfl
@[simp] theorem dmWrite_cntrStk (a : Addr) (v : Word) : (dmWrite a v s).cntrStk = s.cntrStk := by unfold dmWrite; split <;> rfl
@[simp] theorem dmWrite_stsStk (a : Addr) (v : Word) : (dmWrite a v s).stsStk = s.stsStk := by unfold dmWrite; split <;> rfl
@[simp] theorem dmWrite_pm (a : Addr) (v : Word) : (dmWrite a v s).pm = s.pm := by unfold dmWrite; split <;> rfl
@[simp] theorem dmWrite_pmDevices (a : Addr) (v : Word) : (dmWrite a v s).pmDevices = s.pmDevices := by unfold dmWrite; split <;> rfl
@[simp] theorem dmWrite_dmDevices (a : Addr) (v : Word) : (dmWrite a v s).dmDevices = s.dmDevices := by unfold dmWrite; split <;> rfl
@[simp] theorem dmWrite_bank (a : Addr) (v : Word) : (dmWrite a v s).bank = s.bank := by unfold dmWrite; split <;> rfl
@[simp] theorem dmWrite_otherBank (a : Addr) (v : Word) : (dmWrite a v s).otherBank = s.otherBank := by unfold dmWrite; split <;> rfl
@[simp] theorem dmWrite_gen (a : Addr) (v : Word) (n : Fin 8) : (dmWrite a v s).gen n = s.gen n := by unfold dmWrite; split <;> rfl

@[simp] theorem afterPmRead_bank0 (a : Addr) : (afterPmRead a s).bank0 = s.bank0 := by unfold afterPmRead; split <;> rfl
@[simp] theorem afterPmRead_bank1 (a : Addr) : (afterPmRead a s).bank1 = s.bank1 := by unfold afterPmRead; split <;> rfl
@[simp] theorem afterPmRead_gens (a : Addr) : (afterPmRead a s).gens = s.gens := by unfold afterPmRead; split <;> rfl
@[simp] theorem afterPmRead_pc (a : Addr) : (afterPmRead a s).pc = s.pc := by unfold afterPmRead; split <;> rfl
@[simp] theorem afterPmRead_ppc (a : Addr) : (afterPmRead a s).ppc = s.ppc := by unfold afterPmRead; split <;> rfl
@[simp] theorem afterPmRead_loopEnd (a : Addr) : (afterPmRead a s).loopEnd = s.loopEnd := by unfold afterPmRead; split <;> rfl
@[simp] theorem afterPmRead_loopTerm (a : Addr) : (afterPmRead a s).loopTerm = s.loopTerm := by unfold afterPmRead; split <;> rfl
@[simp] theorem afterPmRead_cntr (a : Addr) : (afterPmRead a s).cntr = s.cntr := by unfold afterPmRead; split <;> rfl
@[simp] theorem afterPmRead_astat (a : Addr) : (afterPmRead a s).astat = s.astat := by unfold afterPmRead; split <;> rfl
@[simp] theorem afterPmRead_mstat (a : Addr) : (afterPmRead a s).mstat = s.mstat := by unfold afterPmRead; split <;> rfl
@[simp] theorem afterPmRead_sstat (a : Addr) : (afterPmRead a s).sstat = s.sstat := by unfold afterPmRead; split <;> rfl
@[simp] theorem afterPmRead_imask (a : Addr) : (afterPmRead a s).imask = s.imask := by unfold afterPmRead; split <;> rfl
@[simp] theorem afterPmRead_icntl (a : Addr) : (afterPmRead a s).icntl = s.icntl := by unfold afterPmRead; split <;> rfl
@[simp] theorem afterPmRead_px (a : Addr) : (afterPmRead a s).px = s.px := by unfold afterPmRead; split <;> rfl
@[simp] theorem afterPmRead_irqLevel (a : Addr) : (afterPmRead a s).irqLevel = s.irqLevel := by unfold afterPmRead; split <;> rfl
@[simp] theorem afterPmRead_irqLatch (a : Addr) : (afterPmRead a s).irqLatch = s.irqLatch := by unfold afterPmRead; split <;> rfl
@[simp] theorem afterPmRead_idle (a : Addr) : (afterPmRead a s).idle = s.idle := by unfold afterPmRead; split <;> rfl
@[simp] theorem afterPmRead_flagIn (a : Addr) : (afterPmRead a s).flagIn = s.flagIn := by unfold afterPmRead; split <;> rfl
@[simp] theorem afterPmRead_flagOut (a : Addr) : (afterPmRead a s).flagOut = s.flagOut := by unfold afterPmRead; split <;> rfl
@[simp] theorem afterPmRead_irqExtraCycles (a : Addr) : (afterPmRead a s).irqExtraCycles = s.irqExtraCycles := by unfold afterPmRead; split <;> rfl
@[simp] theorem afterPmRead_pcStk (a : Addr) : (afterPmRead a s).pcStk = s.pcStk := by unfold afterPmRead; split <;> rfl
@[simp] theorem afterPmRead_loopStk (a : Addr) : (afterPmRead a s).loopStk = s.loopStk := by unfold afterPmRead; split <;> rfl
@[simp] theorem afterPmRead_cntrStk (a : Addr) : (afterPmRead a s).cntrStk = s.cntrStk := by unfold afterPmRead; split <;> rfl
@[simp] theorem afterPmRead_stsStk (a : Addr) : (afterPmRead a s).stsStk = s.stsStk := by unfold afterPmRead; split <;> rfl
@[simp] theorem afterPmRead_pm (a : Addr) : (afterPmRead a s).pm = s.pm := by unfold afterPmRead; split <;> rfl
@[simp] theorem afterPmRead_dm (a : Addr) : (afterPmRead a s).dm = s.dm := by unfold afterPmRead; split <;> rfl
@[simp] theorem afterPmRead_pmDevices (a : Addr) : (afterPmRead a s).pmDevices = s.pmDevices := by unfold afterPmRead; split <;> rfl
@[simp] theorem afterPmRead_dmDevices (a : Addr) : (afterPmRead a s).dmDevices = s.dmDevices := by unfold afterPmRead; split <;> rfl
@[simp] theorem afterPmRead_bank (a : Addr) : (afterPmRead a s).bank = s.bank := by unfold afterPmRead; split <;> rfl
@[simp] theorem afterPmRead_otherBank (a : Addr) : (afterPmRead a s).otherBank = s.otherBank := by unfold afterPmRead; split <;> rfl
@[simp] theorem afterPmRead_gen (a : Addr) (n : Fin 8) : (afterPmRead a s).gen n = s.gen n := by unfold afterPmRead; split <;> rfl

@[simp] theorem afterDmRead_bank0 (a : Addr) : (afterDmRead a s).bank0 = s.bank0 := by unfold afterDmRead; split <;> rfl
@[simp] theorem afterDmRead_bank1 (a : Addr) : (afterDmRead a s).bank1 = s.bank1 := by unfold afterDmRead; split <;> rfl
@[simp] theorem afterDmRead_gens (a : Addr) : (afterDmRead a s).gens = s.gens := by unfold afterDmRead; split <;> rfl
@[simp] theorem afterDmRead_pc (a : Addr) : (afterDmRead a s).pc = s.pc := by unfold afterDmRead; split <;> rfl
@[simp] theorem afterDmRead_ppc (a : Addr) : (afterDmRead a s).ppc = s.ppc := by unfold afterDmRead; split <;> rfl
@[simp] theorem afterDmRead_loopEnd (a : Addr) : (afterDmRead a s).loopEnd = s.loopEnd := by unfold afterDmRead; split <;> rfl
@[simp] theorem afterDmRead_loopTerm (a : Addr) : (afterDmRead a s).loopTerm = s.loopTerm := by unfold afterDmRead; split <;> rfl
@[simp] theorem afterDmRead_cntr (a : Addr) : (afterDmRead a s).cntr = s.cntr := by unfold afterDmRead; split <;> rfl
@[simp] theorem afterDmRead_astat (a : Addr) : (afterDmRead a s).astat = s.astat := by unfold afterDmRead; split <;> rfl
@[simp] theorem afterDmRead_mstat (a : Addr) : (afterDmRead a s).mstat = s.mstat := by unfold afterDmRead; split <;> rfl
@[simp] theorem afterDmRead_sstat (a : Addr) : (afterDmRead a s).sstat = s.sstat := by unfold afterDmRead; split <;> rfl
@[simp] theorem afterDmRead_imask (a : Addr) : (afterDmRead a s).imask = s.imask := by unfold afterDmRead; split <;> rfl
@[simp] theorem afterDmRead_icntl (a : Addr) : (afterDmRead a s).icntl = s.icntl := by unfold afterDmRead; split <;> rfl
@[simp] theorem afterDmRead_px (a : Addr) : (afterDmRead a s).px = s.px := by unfold afterDmRead; split <;> rfl
@[simp] theorem afterDmRead_irqLevel (a : Addr) : (afterDmRead a s).irqLevel = s.irqLevel := by unfold afterDmRead; split <;> rfl
@[simp] theorem afterDmRead_irqLatch (a : Addr) : (afterDmRead a s).irqLatch = s.irqLatch := by unfold afterDmRead; split <;> rfl
@[simp] theorem afterDmRead_idle (a : Addr) : (afterDmRead a s).idle = s.idle := by unfold afterDmRead; split <;> rfl
@[simp] theorem afterDmRead_flagIn (a : Addr) : (afterDmRead a s).flagIn = s.flagIn := by unfold afterDmRead; split <;> rfl
@[simp] theorem afterDmRead_flagOut (a : Addr) : (afterDmRead a s).flagOut = s.flagOut := by unfold afterDmRead; split <;> rfl
@[simp] theorem afterDmRead_irqExtraCycles (a : Addr) : (afterDmRead a s).irqExtraCycles = s.irqExtraCycles := by unfold afterDmRead; split <;> rfl
@[simp] theorem afterDmRead_pcStk (a : Addr) : (afterDmRead a s).pcStk = s.pcStk := by unfold afterDmRead; split <;> rfl
@[simp] theorem afterDmRead_loopStk (a : Addr) : (afterDmRead a s).loopStk = s.loopStk := by unfold afterDmRead; split <;> rfl
@[simp] theorem afterDmRead_cntrStk (a : Addr) : (afterDmRead a s).cntrStk = s.cntrStk := by unfold afterDmRead; split <;> rfl
@[simp] theorem afterDmRead_stsStk (a : Addr) : (afterDmRead a s).stsStk = s.stsStk := by unfold afterDmRead; split <;> rfl
@[simp] theorem afterDmRead_pm (a : Addr) : (afterDmRead a s).pm = s.pm := by unfold afterDmRead; split <;> rfl
@[simp] theorem afterDmRead_dm (a : Addr) : (afterDmRead a s).dm = s.dm := by unfold afterDmRead; split <;> rfl
@[simp] theorem afterDmRead_pmDevices (a : Addr) : (afterDmRead a s).pmDevices = s.pmDevices := by unfold afterDmRead; split <;> rfl
@[simp] theorem afterDmRead_dmDevices (a : Addr) : (afterDmRead a s).dmDevices = s.dmDevices := by unfold afterDmRead; split <;> rfl
@[simp] theorem afterDmRead_bank (a : Addr) : (afterDmRead a s).bank = s.bank := by unfold afterDmRead; split <;> rfl
@[simp] theorem afterDmRead_otherBank (a : Addr) : (afterDmRead a s).otherBank = s.otherBank := by unfold afterDmRead; split <;> rfl
@[simp] theorem afterDmRead_gen (a : Addr) (n : Fin 8) : (afterDmRead a s).gen n = s.gen n := by unfold afterDmRead; split <;> rfl

/-- All that a write of program memory can do. -/
theorem pmWrite_cases (a : Addr) (w : OpWord) :
    (a ∉ s.pmDevices ∧ pmWrite a w s = s.setPm (s.pm.putPm a w)) ∨
    (a ∈ s.pmDevices ∧ pmWrite a w s = s.record (.pmWrite a w)) := by
  by_cases h : a ∈ s.pmDevices <;> simp [pmWrite, h]

/-- All that a write of data memory can do. -/
theorem dmWrite_cases (a : Addr) (v : Word) :
    (a ∉ s.dmDevices ∧ dmWrite a v s = s.setDm (s.dm.putDm a v)) ∨
    (a ∈ s.dmDevices ∧ dmWrite a v s = s.record (.dmWrite a v)) := by
  by_cases h : a ∈ s.dmDevices <;> simp [dmWrite, h]

/-- All that a read of program memory can do and answer. -/
theorem pmRead_cases (a : Addr) :
    (a ∉ s.pmDevices ∧ pmRead s a = s.pm.getPm a ∧ afterPmRead a s = s) ∨
    (a ∈ s.pmDevices ∧ pmRead s a = Config.deviceAnswer s.events.length ∧
      afterPmRead a s = s.record (.pmRead a)) := by
  by_cases h : a ∈ s.pmDevices <;> simp [pmRead, afterPmRead, h]

/-- All that a read of data memory can do and answer. -/
theorem dmRead_cases (a : Addr) :
    (a ∉ s.dmDevices ∧ dmRead s a = s.dm.getDm a ∧ afterDmRead a s = s) ∨
    (a ∈ s.dmDevices ∧ dmRead s a = (Config.deviceAnswer s.events.length).setWidth 16 ∧
      afterDmRead a s = s.record (.dmRead a)) := by
  by_cases h : a ∈ s.dmDevices <;> simp [dmRead, afterDmRead, h]

/-! Two updates of the same field, and the order of two updates of the bank and the flags. -/

@[simp] theorem State.setAstat_setAstat (u v : BitVec 8) : (s.setAstat u).setAstat v = s.setAstat v := rfl
@[simp] theorem State.setPc_setPc (a b : Addr) : (s.setPc a).setPc b = s.setPc b := rfl
@[simp] theorem State.setCntr_setCntr (u v : Word) : (s.setCntr u).setCntr v = s.setCntr v := rfl
@[simp] theorem State.setMstat_setMstat (u v : BitVec 4) : (s.setMstat u).setMstat v = s.setMstat v := rfl
theorem State.setAstat_setBank (b : Bank) (v : BitVec 8) :
    (s.setAstat v).setBank b = (s.setBank b).setAstat v := by
  cases h : s.mstat.getLsbD Mode.bank <;> simp only [State.setBank, State.setAstat_mstat, h] <;> rfl

end Sys2Proof.Machine
end

