-- ==== Sys2Proof/Laws/Frames.lean ====
section
/-! SUPPORT. What each shared operation leaves unchanged, field by field. -/

namespace Sys2Proof.Machine

variable (s : State)

/-! `pushPc` -/

@[simp] theorem pushPc_bank0 (v : Addr) : (pushPc v s).bank0 = s.bank0 := rfl
@[simp] theorem pushPc_bank1 (v : Addr) : (pushPc v s).bank1 = s.bank1 := rfl
@[simp] theorem pushPc_gens (v : Addr) : (pushPc v s).gens = s.gens := rfl
@[simp] theorem pushPc_pc (v : Addr) : (pushPc v s).pc = s.pc := rfl
@[simp] theorem pushPc_ppc (v : Addr) : (pushPc v s).ppc = s.ppc := rfl
@[simp] theorem pushPc_loopEnd (v : Addr) : (pushPc v s).loopEnd = s.loopEnd := rfl
@[simp] theorem pushPc_loopTerm (v : Addr) : (pushPc v s).loopTerm = s.loopTerm := rfl
@[simp] theorem pushPc_cntr (v : Addr) : (pushPc v s).cntr = s.cntr := rfl
@[simp] theorem pushPc_astat (v : Addr) : (pushPc v s).astat = s.astat := rfl
@[simp] theorem pushPc_mstat (v : Addr) : (pushPc v s).mstat = s.mstat := rfl
@[simp] theorem pushPc_imask (v : Addr) : (pushPc v s).imask = s.imask := rfl
@[simp] theorem pushPc_icntl (v : Addr) : (pushPc v s).icntl = s.icntl := rfl
@[simp] theorem pushPc_px (v : Addr) : (pushPc v s).px = s.px := rfl
@[simp] theorem pushPc_irqLevel (v : Addr) : (pushPc v s).irqLevel = s.irqLevel := rfl
@[simp] theorem pushPc_irqLatch (v : Addr) : (pushPc v s).irqLatch = s.irqLatch := rfl
@[simp] theorem pushPc_idle (v : Addr) : (pushPc v s).idle = s.idle := rfl
@[simp] theorem pushPc_flagIn (v : Addr) : (pushPc v s).flagIn = s.flagIn := rfl
@[simp] theorem pushPc_flagOut (v : Addr) : (pushPc v s).flagOut = s.flagOut := rfl
@[simp] theorem pushPc_irqExtraCycles (v : Addr) : (pushPc v s).irqExtraCycles = s.irqExtraCycles := rfl
@[simp] theorem pushPc_loopStk (v : Addr) : (pushPc v s).loopStk = s.loopStk := rfl
@[simp] theorem pushPc_cntrStk (v : Addr) : (pushPc v s).cntrStk = s.cntrStk := rfl
@[simp] theorem pushPc_stsStk (v : Addr) : (pushPc v s).stsStk = s.stsStk := rfl
@[simp] theorem pushPc_pm (v : Addr) : (pushPc v s).pm = s.pm := rfl
@[simp] theorem pushPc_dm (v : Addr) : (pushPc v s).dm = s.dm := rfl
@[simp] theorem pushPc_pmDevices (v : Addr) : (pushPc v s).pmDevices = s.pmDevices := rfl
@[simp] theorem pushPc_dmDevices (v : Addr) : (pushPc v s).dmDevices = s.dmDevices := rfl
@[simp] theorem pushPc_events (v : Addr) : (pushPc v s).events = s.events := rfl
@[simp] theorem pushPc_bank (v : Addr) : (pushPc v s).bank = s.bank := rfl
@[simp] theorem pushPc_otherBank (v : Addr) : (pushPc v s).otherBank = s.otherBank := rfl
@[simp] theorem pushPc_gen (v : Addr) (n : Fin 8) : (pushPc v s).gen n = s.gen n := rfl

/-! `popPc` -/

@[simp] theorem popPc_bank0 : (popPc s).bank0 = s.bank0 := rfl
@[simp] theorem popPc_bank1 : (popPc s).bank1 = s.bank1 := rfl
@[simp] theorem popPc_gens : (popPc s).gens = s.gens := rfl
@[simp] theorem popPc_pc : (popPc s).pc = s.pc := rfl
@[simp] theorem popPc_ppc : (popPc s).ppc = s.ppc := rfl
@[simp] theorem popPc_loopEnd : (popPc s).loopEnd = s.loopEnd := rfl
@[simp] theorem popPc_loopTerm : (popPc s).loopTerm = s.loopTerm := rfl
@[simp] theorem popPc_cntr : (popPc s).cntr = s.cntr := rfl
@[simp] theorem popPc_astat : (popPc s).astat = s.astat := rfl
@[simp] theorem popPc_mstat : (popPc s).mstat = s.mstat := rfl
@[simp] theorem popPc_imask : (popPc s).imask = s.imask := rfl
@[simp] theorem popPc_icntl : (popPc s).icntl = s.icntl := rfl
@[simp] theorem popPc_px : (popPc s).px = s.px := rfl
@[simp] theorem popPc_irqLevel : (popPc s).irqLevel = s.irqLevel := rfl
@[simp] theorem popPc_irqLatch : (popPc s).irqLatch = s.irqLatch := rfl
@[simp] theorem popPc_idle : (popPc s).idle = s.idle := rfl
@[simp] theorem popPc_flagIn : (popPc s).flagIn = s.flagIn := rfl
@[simp] theorem popPc_flagOut : (popPc s).flagOut = s.flagOut := rfl
@[simp] theorem popPc_irqExtraCycles : (popPc s).irqExtraCycles = s.irqExtraCycles := rfl
@[simp] theorem popPc_loopStk : (popPc s).loopStk = s.loopStk := rfl
@[simp] theorem popPc_cntrStk : (popPc s).cntrStk = s.cntrStk := rfl
@[simp] theorem popPc_stsStk : (popPc s).stsStk = s.stsStk := rfl
@[simp] theorem popPc_pm : (popPc s).pm = s.pm := rfl
@[simp] theorem popPc_dm : (popPc s).dm = s.dm := rfl
@[simp] theorem popPc_pmDevices : (popPc s).pmDevices = s.pmDevices := rfl
@[simp] theorem popPc_dmDevices : (popPc s).dmDevices = s.dmDevices := rfl
@[simp] theorem popPc_events : (popPc s).events = s.events := rfl
@[simp] theorem popPc_bank : (popPc s).bank = s.bank := rfl
@[simp] theorem popPc_otherBank : (popPc s).otherBank = s.otherBank := rfl
@[simp] theorem popPc_gen (n : Fin 8) : (popPc s).gen n = s.gen n := rfl

/-! `pushLoop` -/

@[simp] theorem pushLoop_bank0 (e : Addr) (t : BitVec 4) : (pushLoop e t s).bank0 = s.bank0 := rfl
@[simp] theorem pushLoop_bank1 (e : Addr) (t : BitVec 4) : (pushLoop e t s).bank1 = s.bank1 := rfl
@[simp] theorem pushLoop_gens (e : Addr) (t : BitVec 4) : (pushLoop e t s).gens = s.gens := rfl
@[simp] theorem pushLoop_pc (e : Addr) (t : BitVec 4) : (pushLoop e t s).pc = s.pc := rfl
@[simp] theorem pushLoop_ppc (e : Addr) (t : BitVec 4) : (pushLoop e t s).ppc = s.ppc := rfl
@[simp] theorem pushLoop_cntr (e : Addr) (t : BitVec 4) : (pushLoop e t s).cntr = s.cntr := rfl
@[simp] theorem pushLoop_astat (e : Addr) (t : BitVec 4) : (pushLoop e t s).astat = s.astat := rfl
@[simp] theorem pushLoop_mstat (e : Addr) (t : BitVec 4) : (pushLoop e t s).mstat = s.mstat := rfl
@[simp] theorem pushLoop_imask (e : Addr) (t : BitVec 4) : (pushLoop e t s).imask = s.imask := rfl
@[simp] theorem pushLoop_icntl (e : Addr) (t : BitVec 4) : (pushLoop e t s).icntl = s.icntl := rfl
@[simp] theorem pushLoop_px (e : Addr) (t : BitVec 4) : (pushLoop e t s).px = s.px := rfl
@[simp] theorem pushLoop_irqLevel (e : Addr) (t : BitVec 4) : (pushLoop e t s).irqLevel = s.irqLevel := rfl
@[simp] theorem pushLoop_irqLatch (e : Addr) (t : BitVec 4) : (pushLoop e t s).irqLatch = s.irqLatch := rfl
@[simp] theorem pushLoop_idle (e : Addr) (t : BitVec 4) : (pushLoop e t s).idle = s.idle := rfl
@[simp] theorem pushLoop_flagIn (e : Addr) (t : BitVec 4) : (pushLoop e t s).flagIn = s.flagIn := rfl
@[simp] theorem pushLoop_flagOut (e : Addr) (t : BitVec 4) : (pushLoop e t s).flagOut = s.flagOut := rfl
@[simp] theorem pushLoop_irqExtraCycles (e : Addr) (t : BitVec 4) : (pushLoop e t s).irqExtraCycles = s.irqExtraCycles := rfl
@[simp] theorem pushLoop_pcStk (e : Addr) (t : BitVec 4) : (pushLoop e t s).pcStk = s.pcStk := rfl
@[simp] theorem pushLoop_cntrStk (e : Addr) (t : BitVec 4) : (pushLoop e t s).cntrStk = s.cntrStk := rfl
@[simp] theorem pushLoop_stsStk (e : Addr) (t : BitVec 4) : (pushLoop e t s).stsStk = s.stsStk := rfl
@[simp] theorem pushLoop_pm (e : Addr) (t : BitVec 4) : (pushLoop e t s).pm = s.pm := rfl
@[simp] theorem pushLoop_dm (e : Addr) (t : BitVec 4) : (pushLoop e t s).dm = s.dm := rfl
@[simp] theorem pushLoop_pmDevices (e : Addr) (t : BitVec 4) : (pushLoop e t s).pmDevices = s.pmDevices := rfl
@[simp] theorem pushLoop_dmDevices (e : Addr) (t : BitVec 4) : (pushLoop e t s).dmDevices = s.dmDevices := rfl
@[simp] theorem pushLoop_events (e : Addr) (t : BitVec 4) : (pushLoop e t s).events = s.events := rfl
@[simp] theorem pushLoop_bank (e : Addr) (t : BitVec 4) : (pushLoop e t s).bank = s.bank := rfl
@[simp] theorem pushLoop_otherBank (e : Addr) (t : BitVec 4) : (pushLoop e t s).otherBank = s.otherBank := rfl
@[simp] theorem pushLoop_gen (e : Addr) (t : BitVec 4) (n : Fin 8) : (pushLoop e t s).gen n = s.gen n := rfl

/-! `popLoop` -/

@[simp] theorem popLoop_bank0 : (popLoop s).bank0 = s.bank0 := by simp only [popLoop]; split <;> rfl
@[simp] theorem popLoop_bank1 : (popLoop s).bank1 = s.bank1 := by simp only [popLoop]; split <;> rfl
@[simp] theorem popLoop_gens : (popLoop s).gens = s.gens := by simp only [popLoop]; split <;> rfl
@[simp] theorem popLoop_pc : (popLoop s).pc = s.pc := by simp only [popLoop]; split <;> rfl
@[simp] theorem popLoop_ppc : (popLoop s).ppc = s.ppc := by simp only [popLoop]; split <;> rfl
@[simp] theorem popLoop_cntr : (popLoop s).cntr = s.cntr := by simp only [popLoop]; split <;> rfl
@[simp] theorem popLoop_astat : (popLoop s).astat = s.astat := by simp only [popLoop]; split <;> rfl
@[simp] theorem popLoop_mstat : (popLoop s).mstat = s.mstat := by simp only [popLoop]; split <;> rfl
@[simp] theorem popLoop_imask : (popLoop s).imask = s.imask := by simp only [popLoop]; split <;> rfl
@[simp] theorem popLoop_icntl : (popLoop s).icntl = s.icntl := by simp only [popLoop]; split <;> rfl
@[simp] theorem popLoop_px : (popLoop s).px = s.px := by simp only [popLoop]; split <;> rfl
@[simp] theorem popLoop_irqLevel : (popLoop s).irqLevel = s.irqLevel := by simp only [popLoop]; split <;> rfl
@[simp] theorem popLoop_irqLatch : (popLoop s).irqLatch = s.irqLatch := by simp only [popLoop]; split <;> rfl
@[simp] theorem popLoop_idle : (popLoop s).idle = s.idle := by simp only [popLoop]; split <;> rfl
@[simp] theorem popLoop_flagIn : (popLoop s).flagIn = s.flagIn := by simp only [popLoop]; split <;> rfl
@[simp] theorem popLoop_flagOut : (popLoop s).flagOut = s.flagOut := by simp only [popLoop]; split <;> rfl
@[simp] theorem popLoop_irqExtraCycles : (popLoop s).irqExtraCycles = s.irqExtraCycles := by simp only [popLoop]; split <;> rfl
@[simp] theorem popLoop_pcStk : (popLoop s).pcStk = s.pcStk := by simp only [popLoop]; split <;> rfl
@[simp] theorem popLoop_cntrStk : (popLoop s).cntrStk = s.cntrStk := by simp only [popLoop]; split <;> rfl
@[simp] theorem popLoop_stsStk : (popLoop s).stsStk = s.stsStk := by simp only [popLoop]; split <;> rfl
@[simp] theorem popLoop_pm : (popLoop s).pm = s.pm := by simp only [popLoop]; split <;> rfl
@[simp] theorem popLoop_dm : (popLoop s).dm = s.dm := by simp only [popLoop]; split <;> rfl
@[simp] theorem popLoop_pmDevices : (popLoop s).pmDevices = s.pmDevices := by simp only [popLoop]; split <;> rfl
@[simp] theorem popLoop_dmDevices : (popLoop s).dmDevices = s.dmDevices := by simp only [popLoop]; split <;> rfl
@[simp] theorem popLoop_events : (popLoop s).events = s.events := by simp only [popLoop]; split <;> rfl
@[simp] theorem popLoop_bank : (popLoop s).bank = s.bank := by simp only [popLoop]; split <;> rfl
@[simp] theorem popLoop_otherBank : (popLoop s).otherBank = s.otherBank := by simp only [popLoop]; split <;> rfl
@[simp] theorem popLoop_gen (n : Fin 8) : (popLoop s).gen n = s.gen n := by simp only [popLoop]; split <;> rfl

/-! `pushCntr` -/

@[simp] theorem pushCntr_bank0 : (pushCntr s).bank0 = s.bank0 := rfl
@[simp] theorem pushCntr_bank1 : (pushCntr s).bank1 = s.bank1 := rfl
@[simp] theorem pushCntr_gens : (pushCntr s).gens = s.gens := rfl
@[simp] theorem pushCntr_pc : (pushCntr s).pc = s.pc := rfl
@[simp] theorem pushCntr_ppc : (pushCntr s).ppc = s.ppc := rfl
@[simp] theorem pushCntr_loopEnd : (pushCntr s).loopEnd = s.loopEnd := rfl
@[simp] theorem pushCntr_loopTerm : (pushCntr s).loopTerm = s.loopTerm := rfl
@[simp] theorem pushCntr_cntr : (pushCntr s).cntr = s.cntr := rfl
@[simp] theorem pushCntr_astat : (pushCntr s).astat = s.astat := rfl
@[simp] theorem pushCntr_mstat : (pushCntr s).mstat = s.mstat := rfl
@[simp] theorem pushCntr_imask : (pushCntr s).imask = s.imask := rfl
@[simp] theorem pushCntr_icntl : (pushCntr s).icntl = s.icntl := rfl
@[simp] theorem pushCntr_px : (pushCntr s).px = s.px := rfl
@[simp] theorem pushCntr_irqLevel : (pushCntr s).irqLevel = s.irqLevel := rfl
@[simp] theorem pushCntr_irqLatch : (pushCntr s).irqLatch = s.irqLatch := rfl
@[simp] theorem pushCntr_idle : (pushCntr s).idle = s.idle := rfl
@[simp] theorem pushCntr_flagIn : (pushCntr s).flagIn = s.flagIn := rfl
@[simp] theorem pushCntr_flagOut : (pushCntr s).flagOut = s.flagOut := rfl
@[simp] theorem pushCntr_irqExtraCycles : (pushCntr s).irqExtraCycles = s.irqExtraCycles := rfl
@[simp] theorem pushCntr_pcStk : (pushCntr s).pcStk = s.pcStk := rfl
@[simp] theorem pushCntr_loopStk : (pushCntr s).loopStk = s.loopStk := rfl
@[simp] theorem pushCntr_stsStk : (pushCntr s).stsStk = s.stsStk := rfl
@[simp] theorem pushCntr_pm : (pushCntr s).pm = s.pm := rfl
@[simp] theorem pushCntr_dm : (pushCntr s).dm = s.dm := rfl
@[simp] theorem pushCntr_pmDevices : (pushCntr s).pmDevices = s.pmDevices := rfl
@[simp] theorem pushCntr_dmDevices : (pushCntr s).dmDevices = s.dmDevices := rfl
@[simp] theorem pushCntr_events : (pushCntr s).events = s.events := rfl
@[simp] theorem pushCntr_bank : (pushCntr s).bank = s.bank := rfl
@[simp] theorem pushCntr_otherBank : (pushCntr s).otherBank = s.otherBank := rfl
@[simp] theorem pushCntr_gen (n : Fin 8) : (pushCntr s).gen n = s.gen n := rfl

/-! `popCntr` -/

@[simp] theorem popCntr_bank0 : (popCntr s).bank0 = s.bank0 := rfl
@[simp] theorem popCntr_bank1 : (popCntr s).bank1 = s.bank1 := rfl
@[simp] theorem popCntr_gens : (popCntr s).gens = s.gens := rfl
@[simp] theorem popCntr_pc : (popCntr s).pc = s.pc := rfl
@[simp] theorem popCntr_ppc : (popCntr s).ppc = s.ppc := rfl
@[simp] theorem popCntr_loopEnd : (popCntr s).loopEnd = s.loopEnd := rfl
@[simp] theorem popCntr_loopTerm : (popCntr s).loopTerm = s.loopTerm := rfl
@[simp] theorem popCntr_astat : (popCntr s).astat = s.astat := rfl
@[simp] theorem popCntr_mstat : (popCntr s).mstat = s.mstat := rfl
@[simp] theorem popCntr_imask : (popCntr s).imask = s.imask := rfl
@[simp] theorem popCntr_icntl : (popCntr s).icntl = s.icntl := rfl
@[simp] theorem popCntr_px : (popCntr s).px = s.px := rfl
@[simp] theorem popCntr_irqLevel : (popCntr s).irqLevel = s.irqLevel := rfl
@[simp] theorem popCntr_irqLatch : (popCntr s).irqLatch = s.irqLatch := rfl
@[simp] theorem popCntr_idle : (popCntr s).idle = s.idle := rfl
@[simp] theorem popCntr_flagIn : (popCntr s).flagIn = s.flagIn := rfl
@[simp] theorem popCntr_flagOut : (popCntr s).flagOut = s.flagOut := rfl
@[simp] theorem popCntr_irqExtraCycles : (popCntr s).irqExtraCycles = s.irqExtraCycles := rfl
@[simp] theorem popCntr_pcStk : (popCntr s).pcStk = s.pcStk := rfl
@[simp] theorem popCntr_loopStk : (popCntr s).loopStk = s.loopStk := rfl
@[simp] theorem popCntr_stsStk : (popCntr s).stsStk = s.stsStk := rfl
@[simp] theorem popCntr_pm : (popCntr s).pm = s.pm := rfl
@[simp] theorem popCntr_dm : (popCntr s).dm = s.dm := rfl
@[simp] theorem popCntr_pmDevices : (popCntr s).pmDevices = s.pmDevices := rfl
@[simp] theorem popCntr_dmDevices : (popCntr s).dmDevices = s.dmDevices := rfl
@[simp] theorem popCntr_events : (popCntr s).events = s.events := rfl
@[simp] theorem popCntr_bank : (popCntr s).bank = s.bank := rfl
@[simp] theorem popCntr_otherBank : (popCntr s).otherBank = s.otherBank := rfl
@[simp] theorem popCntr_gen (n : Fin 8) : (popCntr s).gen n = s.gen n := rfl

/-! `pushSts` -/

@[simp] theorem pushSts_bank0 : (pushSts s).bank0 = s.bank0 := rfl
@[simp] theorem pushSts_bank1 : (pushSts s).bank1 = s.bank1 := rfl
@[simp] theorem pushSts_gens : (pushSts s).gens = s.gens := rfl
@[simp] theorem pushSts_pc : (pushSts s).pc = s.pc := rfl
@[simp] theorem pushSts_ppc : (pushSts s).ppc = s.ppc := rfl
@[simp] theorem pushSts_loopEnd : (pushSts s).loopEnd = s.loopEnd := rfl
@[simp] theorem pushSts_loopTerm : (pushSts s).loopTerm = s.loopTerm := rfl
@[simp] theorem pushSts_cntr : (pushSts s).cntr = s.cntr := rfl
@[simp] theorem pushSts_astat : (pushSts s).astat = s.astat := rfl
@[simp] theorem pushSts_mstat : (pushSts s).mstat = s.mstat := rfl
@[simp] theorem pushSts_imask : (pushSts s).imask = s.imask := rfl
@[simp] theorem pushSts_icntl : (pushSts s).icntl = s.icntl := rfl
@[simp] theorem pushSts_px : (pushSts s).px = s.px := rfl
@[simp] theorem pushSts_irqLevel : (pushSts s).irqLevel = s.irqLevel := rfl
@[simp] theorem pushSts_irqLatch : (pushSts s).irqLatch = s.irqLatch := rfl
@[simp] theorem pushSts_idle : (pushSts s).idle = s.idle := rfl
@[simp] theorem pushSts_flagIn : (pushSts s).flagIn = s.flagIn := rfl
@[simp] theorem pushSts_flagOut : (pushSts s).flagOut = s.flagOut := rfl
@[simp] theorem pushSts_irqExtraCycles : (pushSts s).irqExtraCycles = s.irqExtraCycles := rfl
@[simp] theorem pushSts_pcStk : (pushSts s).pcStk = s.pcStk := rfl
@[simp] theorem pushSts_loopStk : (pushSts s).loopStk = s.loopStk := rfl
@[simp] theorem pushSts_cntrStk : (pushSts s).cntrStk = s.cntrStk := rfl
@[simp] theorem pushSts_pm : (pushSts s).pm = s.pm := rfl
@[simp] theorem pushSts_dm : (pushSts s).dm = s.dm := rfl
@[simp] theorem pushSts_pmDevices : (pushSts s).pmDevices = s.pmDevices := rfl
@[simp] theorem pushSts_dmDevices : (pushSts s).dmDevices = s.dmDevices := rfl
@[simp] theorem pushSts_events : (pushSts s).events = s.events := rfl
@[simp] theorem pushSts_bank : (pushSts s).bank = s.bank := rfl
@[simp] theorem pushSts_otherBank : (pushSts s).otherBank = s.otherBank := rfl
@[simp] theorem pushSts_gen (n : Fin 8) : (pushSts s).gen n = s.gen n := rfl

/-! `popSts` -/

@[simp] theorem popSts_bank0 : (popSts s).bank0 = s.bank0 := by simp [popSts]
@[simp] theorem popSts_bank1 : (popSts s).bank1 = s.bank1 := by simp [popSts]
@[simp] theorem popSts_gens : (popSts s).gens = s.gens := by simp [popSts]
@[simp] theorem popSts_pc : (popSts s).pc = s.pc := by simp [popSts]
@[simp] theorem popSts_ppc : (popSts s).ppc = s.ppc := by simp [popSts]
@[simp] theorem popSts_loopEnd : (popSts s).loopEnd = s.loopEnd := by simp [popSts]
@[simp] theorem popSts_loopTerm : (popSts s).loopTerm = s.loopTerm := by simp [popSts]
@[simp] theorem popSts_cntr : (popSts s).cntr = s.cntr := by simp [popSts]
@[simp] theorem popSts_icntl : (popSts s).icntl = s.icntl := by simp [popSts]
@[simp] theorem popSts_px : (popSts s).px = s.px := by simp [popSts]
@[simp] theorem popSts_irqLevel : (popSts s).irqLevel = s.irqLevel := by simp [popSts]
@[simp] theorem popSts_irqLatch : (popSts s).irqLatch = s.irqLatch := by simp [popSts]
@[simp] theorem popSts_idle : (popSts s).idle = s.idle := by simp [popSts]
@[simp] theorem popSts_flagIn : (popSts s).flagIn = s.flagIn := by simp [popSts]
@[simp] theorem popSts_flagOut : (popSts s).flagOut = s.flagOut := by simp [popSts]
@[simp] theorem popSts_irqExtraCycles : (popSts s).irqExtraCycles = s.irqExtraCycles := by simp [popSts]
@[simp] theorem popSts_pcStk : (popSts s).pcStk = s.pcStk := by simp [popSts]
@[simp] theorem popSts_loopStk : (popSts s).loopStk = s.loopStk := by simp [popSts]
@[simp] theorem popSts_cntrStk : (popSts s).cntrStk = s.cntrStk := by simp [popSts]
@[simp] theorem popSts_pm : (popSts s).pm = s.pm := by simp [popSts]
@[simp] theorem popSts_dm : (popSts s).dm = s.dm := by simp [popSts]
@[simp] theorem popSts_pmDevices : (popSts s).pmDevices = s.pmDevices := by simp [popSts]
@[simp] theorem popSts_dmDevices : (popSts s).dmDevices = s.dmDevices := by simp [popSts]
@[simp] theorem popSts_events : (popSts s).events = s.events := by simp [popSts]
@[simp] theorem popSts_gen (n : Fin 8) : (popSts s).gen n = s.gen n := by simp [popSts]

/-! `modify` -/

@[simp] theorem modify_bank0 (n m : Fin 8) : (modify n m s).bank0 = s.bank0 := rfl
@[simp] theorem modify_bank1 (n m : Fin 8) : (modify n m s).bank1 = s.bank1 := rfl
@[simp] theorem modify_pc (n m : Fin 8) : (modify n m s).pc = s.pc := rfl
@[simp] theorem modify_ppc (n m : Fin 8) : (modify n m s).ppc = s.ppc := rfl
@[simp] theorem modify_loopEnd (n m : Fin 8) : (modify n m s).loopEnd = s.loopEnd := rfl
@[simp] theorem modify_loopTerm (n m : Fin 8) : (modify n m s).loopTerm = s.loopTerm := rfl
@[simp] theorem modify_cntr (n m : Fin 8) : (modify n m s).cntr = s.cntr := rfl
@[simp] theorem modify_astat (n m : Fin 8) : (modify n m s).astat = s.astat := rfl
@[simp] theorem modify_mstat (n m : Fin 8) : (modify n m s).mstat = s.mstat := rfl
@[simp] theorem modify_sstat (n m : Fin 8) : (modify n m s).sstat = s.sstat := rfl
@[simp] theorem modify_imask (n m : Fin 8) : (modify n m s).imask = s.imask := rfl
@[simp] theorem modify_icntl (n m : Fin 8) : (modify n m s).icntl = s.icntl := rfl
@[simp] theorem modify_px (n m : Fin 8) : (modify n m s).px = s.px := rfl
@[simp] theorem modify_irqLevel (n m : Fin 8) : (modify n m s).irqLevel = s.irqLevel := rfl
@[simp] theorem modify_irqLatch (n m : Fin 8) : (modify n m s).irqLatch = s.irqLatch := rfl
@[simp] theorem modify_idle (n m : Fin 8) : (modify n m s).idle = s.idle := rfl
@[simp] theorem modify_flagIn (n m : Fin 8) : (modify n m s).flagIn = s.flagIn := rfl
@[simp] theorem modify_flagOut (n m : Fin 8) : (modify n m s).flagOut = s.flagOut := rfl
@[simp] theorem modify_irqExtraCycles (n m : Fin 8) : (modify n m s).irqExtraCycles = s.irqExtraCycles := rfl
@[simp] theorem modify_pcStk (n m : Fin 8) : (modify n m s).pcStk = s.pcStk := rfl
@[simp] theorem modify_loopStk (n m : Fin 8) : (modify n m s).loopStk = s.loopStk := rfl
@[simp] theorem modify_cntrStk (n m : Fin 8) : (modify n m s).cntrStk = s.cntrStk := rfl
@[simp] theorem modify_stsStk (n m : Fin 8) : (modify n m s).stsStk = s.stsStk := rfl
@[simp] theorem modify_pm (n m : Fin 8) : (modify n m s).pm = s.pm := rfl
@[simp] theorem modify_dm (n m : Fin 8) : (modify n m s).dm = s.dm := rfl
@[simp] theorem modify_pmDevices (n m : Fin 8) : (modify n m s).pmDevices = s.pmDevices := rfl
@[simp] theorem modify_dmDevices (n m : Fin 8) : (modify n m s).dmDevices = s.dmDevices := rfl
@[simp] theorem modify_events (n m : Fin 8) : (modify n m s).events = s.events := rfl
@[simp] theorem modify_bank (n m : Fin 8) : (modify n m s).bank = s.bank := rfl
@[simp] theorem modify_otherBank (n m : Fin 8) : (modify n m s).otherBank = s.otherBank := rfl

/-! `writeI` -/

@[simp] theorem writeI_bank0 (n : Fin 8) (v : Word) : (writeI n v s).bank0 = s.bank0 := rfl
@[simp] theorem writeI_bank1 (n : Fin 8) (v : Word) : (writeI n v s).bank1 = s.bank1 := rfl
@[simp] theorem writeI_pc (n : Fin 8) (v : Word) : (writeI n v s).pc = s.pc := rfl
@[simp] theorem writeI_ppc (n : Fin 8) (v : Word) : (writeI n v s).ppc = s.ppc := rfl
@[simp] theorem writeI_loopEnd (n : Fin 8) (v : Word) : (writeI n v s).loopEnd = s.loopEnd := rfl
@[simp] theorem writeI_loopTerm (n : Fin 8) (v : Word) : (writeI n v s).loopTerm = s.loopTerm := rfl
@[simp] theorem writeI_cntr (n : Fin 8) (v : Word) : (writeI n v s).cntr = s.cntr := rfl
@[simp] theorem writeI_astat (n : Fin 8) (v : Word) : (writeI n v s).astat = s.astat := rfl
@[simp] theorem writeI_mstat (n : Fin 8) (v : Word) : (writeI n v s).mstat = s.mstat := rfl
@[simp] theorem writeI_sstat (n : Fin 8) (v : Word) : (writeI n v s).sstat = s.sstat := rfl
@[simp] theorem writeI_imask (n : Fin 8) (v : Word) : (writeI n v s).imask = s.imask := rfl
@[simp] theorem writeI_icntl (n : Fin 8) (v : Word) : (writeI n v s).icntl = s.icntl := rfl
@[simp] theorem writeI_px (n : Fin 8) (v : Word) : (writeI n v s).px = s.px := rfl
@[simp] theorem writeI_irqLevel (n : Fin 8) (v : Word) : (writeI n v s).irqLevel = s.irqLevel := rfl
@[simp] theorem writeI_irqLatch (n : Fin 8) (v : Word) : (writeI n v s).irqLatch = s.irqLatch := rfl
@[simp] theorem writeI_idle (n : Fin 8) (v : Word) : (writeI n v s).idle = s.idle := rfl
@[simp] theorem writeI_flagIn (n : Fin 8) (v : Word) : (writeI n v s).flagIn = s.flagIn := rfl
@[simp] theorem writeI_flagOut (n : Fin 8) (v : Word) : (writeI n v s).flagOut = s.flagOut := rfl
@[simp] theorem writeI_irqExtraCycles (n : Fin 8) (v : Word) : (writeI n v s).irqExtraCycles = s.irqExtraCycles := rfl
@[simp] theorem writeI_pcStk (n : Fin 8) (v : Word) : (writeI n v s).pcStk = s.pcStk := rfl
@[simp] theorem writeI_loopStk (n : Fin 8) (v : Word) : (writeI n v s).loopStk = s.loopStk := rfl
@[simp] theorem writeI_cntrStk (n : Fin 8) (v : Word) : (writeI n v s).cntrStk = s.cntrStk := rfl
@[simp] theorem writeI_stsStk (n : Fin 8) (v : Word) : (writeI n v s).stsStk = s.stsStk := rfl
@[simp] theorem writeI_pm (n : Fin 8) (v : Word) : (writeI n v s).pm = s.pm := rfl
@[simp] theorem writeI_dm (n : Fin 8) (v : Word) : (writeI n v s).dm = s.dm := rfl
@[simp] theorem writeI_pmDevices (n : Fin 8) (v : Word) : (writeI n v s).pmDevices = s.pmDevices := rfl
@[simp] theorem writeI_dmDevices (n : Fin 8) (v : Word) : (writeI n v s).dmDevices = s.dmDevices := rfl
@[simp] theorem writeI_events (n : Fin 8) (v : Word) : (writeI n v s).events = s.events := rfl
@[simp] theorem writeI_bank (n : Fin 8) (v : Word) : (writeI n v s).bank = s.bank := rfl
@[simp] theorem writeI_otherBank (n : Fin 8) (v : Word) : (writeI n v s).otherBank = s.otherBank := rfl

/-! `writeM` -/

@[simp] theorem writeM_bank0 (n : Fin 8) (v : Word) : (writeM n v s).bank0 = s.bank0 := rfl
@[simp] theorem writeM_bank1 (n : Fin 8) (v : Word) : (writeM n v s).bank1 = s.bank1 := rfl
@[simp] theorem writeM_pc (n : Fin 8) (v : Word) : (writeM n v s).pc = s.pc := rfl
@[simp] theorem writeM_ppc (n : Fin 8) (v : Word) : (writeM n v s).ppc = s.ppc := rfl
@[simp] theorem writeM_loopEnd (n : Fin 8) (v : Word) : (writeM n v s).loopEnd = s.loopEnd := rfl
@[simp] theorem writeM_loopTerm (n : Fin 8) (v : Word) : (writeM n v s).loopTerm = s.loopTerm := rfl
@[simp] theorem writeM_cntr (n : Fin 8) (v : Word) : (writeM n v s).cntr = s.cntr := rfl
@[simp] theorem writeM_astat (n : Fin 8) (v : Word) : (writeM n v s).astat = s.astat := rfl
@[simp] theorem writeM_mstat (n : Fin 8) (v : Word) : (writeM n v s).mstat = s.mstat := rfl
@[simp] theorem writeM_sstat (n : Fin 8) (v : Word) : (writeM n v s).sstat = s.sstat := rfl
@[simp] theorem writeM_imask (n : Fin 8) (v : Word) : (writeM n v s).imask = s.imask := rfl
@[simp] theorem writeM_icntl (n : Fin 8) (v : Word) : (writeM n v s).icntl = s.icntl := rfl
@[simp] theorem writeM_px (n : Fin 8) (v : Word) : (writeM n v s).px = s.px := rfl
@[simp] theorem writeM_irqLevel (n : Fin 8) (v : Word) : (writeM n v s).irqLevel = s.irqLevel := rfl
@[simp] theorem writeM_irqLatch (n : Fin 8) (v : Word) : (writeM n v s).irqLatch = s.irqLatch := rfl
@[simp] theorem writeM_idle (n : Fin 8) (v : Word) : (writeM n v s).idle = s.idle := rfl
@[simp] theorem writeM_flagIn (n : Fin 8) (v : Word) : (writeM n v s).flagIn = s.flagIn := rfl
@[simp] theorem writeM_flagOut (n : Fin 8) (v : Word) : (writeM n v s).flagOut = s.flagOut := rfl
@[simp] theorem writeM_irqExtraCycles (n : Fin 8) (v : Word) : (writeM n v s).irqExtraCycles = s.irqExtraCycles := rfl
@[simp] theorem writeM_pcStk (n : Fin 8) (v : Word) : (writeM n v s).pcStk = s.pcStk := rfl
@[simp] theorem writeM_loopStk (n : Fin 8) (v : Word) : (writeM n v s).loopStk = s.loopStk := rfl
@[simp] theorem writeM_cntrStk (n : Fin 8) (v : Word) : (writeM n v s).cntrStk = s.cntrStk := rfl
@[simp] theorem writeM_stsStk (n : Fin 8) (v : Word) : (writeM n v s).stsStk = s.stsStk := rfl
@[simp] theorem writeM_pm (n : Fin 8) (v : Word) : (writeM n v s).pm = s.pm := rfl
@[simp] theorem writeM_dm (n : Fin 8) (v : Word) : (writeM n v s).dm = s.dm := rfl
@[simp] theorem writeM_pmDevices (n : Fin 8) (v : Word) : (writeM n v s).pmDevices = s.pmDevices := rfl
@[simp] theorem writeM_dmDevices (n : Fin 8) (v : Word) : (writeM n v s).dmDevices = s.dmDevices := rfl
@[simp] theorem writeM_events (n : Fin 8) (v : Word) : (writeM n v s).events = s.events := rfl
@[simp] theorem writeM_bank (n : Fin 8) (v : Word) : (writeM n v s).bank = s.bank := rfl
@[simp] theorem writeM_otherBank (n : Fin 8) (v : Word) : (writeM n v s).otherBank = s.otherBank := rfl

/-! `writeL` -/

@[simp] theorem writeL_bank0 (n : Fin 8) (v : Word) : (writeL n v s).bank0 = s.bank0 := rfl
@[simp] theorem writeL_bank1 (n : Fin 8) (v : Word) : (writeL n v s).bank1 = s.bank1 := rfl
@[simp] theorem writeL_pc (n : Fin 8) (v : Word) : (writeL n v s).pc = s.pc := rfl
@[simp] theorem writeL_ppc (n : Fin 8) (v : Word) : (writeL n v s).ppc = s.ppc := rfl
@[simp] theorem writeL_loopEnd (n : Fin 8) (v : Word) : (writeL n v s).loopEnd = s.loopEnd := rfl
@[simp] theorem writeL_loopTerm (n : Fin 8) (v : Word) : (writeL n v s).loopTerm = s.loopTerm := rfl
@[simp] theorem writeL_cntr (n : Fin 8) (v : Word) : (writeL n v s).cntr = s.cntr := rfl
@[simp] theorem writeL_astat (n : Fin 8) (v : Word) : (writeL n v s).astat = s.astat := rfl
@[simp] theorem writeL_mstat (n : Fin 8) (v : Word) : (writeL n v s).mstat = s.mstat := rfl
@[simp] theorem writeL_sstat (n : Fin 8) (v : Word) : (writeL n v s).sstat = s.sstat := rfl
@[simp] theorem writeL_imask (n : Fin 8) (v : Word) : (writeL n v s).imask = s.imask := rfl
@[simp] theorem writeL_icntl (n : Fin 8) (v : Word) : (writeL n v s).icntl = s.icntl := rfl
@[simp] theorem writeL_px (n : Fin 8) (v : Word) : (writeL n v s).px = s.px := rfl
@[simp] theorem writeL_irqLevel (n : Fin 8) (v : Word) : (writeL n v s).irqLevel = s.irqLevel := rfl
@[simp] theorem writeL_irqLatch (n : Fin 8) (v : Word) : (writeL n v s).irqLatch = s.irqLatch := rfl
@[simp] theorem writeL_idle (n : Fin 8) (v : Word) : (writeL n v s).idle = s.idle := rfl
@[simp] theorem writeL_flagIn (n : Fin 8) (v : Word) : (writeL n v s).flagIn = s.flagIn := rfl
@[simp] theorem writeL_flagOut (n : Fin 8) (v : Word) : (writeL n v s).flagOut = s.flagOut := rfl
@[simp] theorem writeL_irqExtraCycles (n : Fin 8) (v : Word) : (writeL n v s).irqExtraCycles = s.irqExtraCycles := rfl
@[simp] theorem writeL_pcStk (n : Fin 8) (v : Word) : (writeL n v s).pcStk = s.pcStk := rfl
@[simp] theorem writeL_loopStk (n : Fin 8) (v : Word) : (writeL n v s).loopStk = s.loopStk := rfl
@[simp] theorem writeL_cntrStk (n : Fin 8) (v : Word) : (writeL n v s).cntrStk = s.cntrStk := rfl
@[simp] theorem writeL_stsStk (n : Fin 8) (v : Word) : (writeL n v s).stsStk = s.stsStk := rfl
@[simp] theorem writeL_pm (n : Fin 8) (v : Word) : (writeL n v s).pm = s.pm := rfl
@[simp] theorem writeL_dm (n : Fin 8) (v : Word) : (writeL n v s).dm = s.dm := rfl
@[simp] theorem writeL_pmDevices (n : Fin 8) (v : Word) : (writeL n v s).pmDevices = s.pmDevices := rfl
@[simp] theorem writeL_dmDevices (n : Fin 8) (v : Word) : (writeL n v s).dmDevices = s.dmDevices := rfl
@[simp] theorem writeL_events (n : Fin 8) (v : Word) : (writeL n v s).events = s.events := rfl
@[simp] theorem writeL_bank (n : Fin 8) (v : Word) : (writeL n v s).bank = s.bank := rfl
@[simp] theorem writeL_otherBank (n : Fin 8) (v : Word) : (writeL n v s).otherBank = s.otherBank := rfl

/-! `evalCond` changes the counter and its stack, for code 14 only. -/

/-- All that an evaluation of a condition can do (R104). -/
theorem evalCond_cases (c : Cond) :
    (c ≠ .notCe ∧ evalCond c s = (condTable c s.astat, s)) ∨
    (c = .notCe ∧ 1 < s.cntr.toNat ∧ evalCond c s = (true, s.setCntr (s.cntr - 1))) ∨
    (c = .notCe ∧ s.cntr.toNat ≤ 1 ∧ evalCond c s = (false, popCntr (s.setCntr (s.cntr - 1)))) := by
  by_cases hc : c = .notCe
  · subst hc
    by_cases h : 1 < s.cntr.toNat
    · exact .inr (.inl ⟨rfl, h, by simp [evalCond, h]⟩)
    · exact .inr (.inr ⟨rfl, by omega, by simp [evalCond, h]⟩)
  · exact .inl ⟨hc, by cases c <;> first | rfl | exact absurd rfl hc⟩

@[simp] theorem evalCond_bank0 (c : Cond) : (evalCond c s).2.bank0 = s.bank0 := by
  rcases evalCond_cases s c with ⟨_, h⟩ | ⟨_, _, h⟩ | ⟨_, _, h⟩ <;> simp [h]
@[simp] theorem evalCond_bank1 (c : Cond) : (evalCond c s).2.bank1 = s.bank1 := by
  rcases evalCond_cases s c with ⟨_, h⟩ | ⟨_, _, h⟩ | ⟨_, _, h⟩ <;> simp [h]
@[simp] theorem evalCond_gens (c : Cond) : (evalCond c s).2.gens = s.gens := by
  rcases evalCond_cases s c with ⟨_, h⟩ | ⟨_, _, h⟩ | ⟨_, _, h⟩ <;> simp [h]
@[simp] theorem evalCond_pc (c : Cond) : (evalCond c s).2.pc = s.pc := by
  rcases evalCond_cases s c with ⟨_, h⟩ | ⟨_, _, h⟩ | ⟨_, _, h⟩ <;> simp [h]
@[simp] theorem evalCond_ppc (c : Cond) : (evalCond c s).2.ppc = s.ppc := by
  rcases evalCond_cases s c with ⟨_, h⟩ | ⟨_, _, h⟩ | ⟨_, _, h⟩ <;> simp [h]
@[simp] theorem evalCond_loopEnd (c : Cond) : (evalCond c s).2.loopEnd = s.loopEnd := by
  rcases evalCond_cases s c with ⟨_, h⟩ | ⟨_, _, h⟩ | ⟨_, _, h⟩ <;> simp [h]
@[simp] theorem evalCond_loopTerm (c : Cond) : (evalCond c s).2.loopTerm = s.loopTerm := by
  rcases evalCond_cases s c with ⟨_, h⟩ | ⟨_, _, h⟩ | ⟨_, _, h⟩ <;> simp [h]
@[simp] theorem evalCond_astat (c : Cond) : (evalCond c s).2.astat = s.astat := by
  rcases evalCond_cases s c with ⟨_, h⟩ | ⟨_, _, h⟩ | ⟨_, _, h⟩ <;> simp [h]
@[simp] theorem evalCond_mstat (c : Cond) : (evalCond c s).2.mstat = s.mstat := by
  rcases evalCond_cases s c with ⟨_, h⟩ | ⟨_, _, h⟩ | ⟨_, _, h⟩ <;> simp [h]
@[simp] theorem evalCond_imask (c : Cond) : (evalCond c s).2.imask = s.imask := by
  rcases evalCond_cases s c with ⟨_, h⟩ | ⟨_, _, h⟩ | ⟨_, _, h⟩ <;> simp [h]
@[simp] theorem evalCond_icntl (c : Cond) : (evalCond c s).2.icntl = s.icntl := by
  rcases evalCond_cases s c with ⟨_, h⟩ | ⟨_, _, h⟩ | ⟨_, _, h⟩ <;> simp [h]
@[simp] theorem evalCond_px (c : Cond) : (evalCond c s).2.px = s.px := by
  rcases evalCond_cases s c with ⟨_, h⟩ | ⟨_, _, h⟩ | ⟨_, _, h⟩ <;> simp [h]
@[simp] theorem evalCond_irqLevel (c : Cond) : (evalCond c s).2.irqLevel = s.irqLevel := by
  rcases evalCond_cases s c with ⟨_, h⟩ | ⟨_, _, h⟩ | ⟨_, _, h⟩ <;> simp [h]
@[simp] theorem evalCond_irqLatch (c : Cond) : (evalCond c s).2.irqLatch = s.irqLatch := by
  rcases evalCond_cases s c with ⟨_, h⟩ | ⟨_, _, h⟩ | ⟨_, _, h⟩ <;> simp [h]
@[simp] theorem evalCond_idle (c : Cond) : (evalCond c s).2.idle = s.idle := by
  rcases evalCond_cases s c with ⟨_, h⟩ | ⟨_, _, h⟩ | ⟨_, _, h⟩ <;> simp [h]
@[simp] theorem evalCond_flagIn (c : Cond) : (evalCond c s).2.flagIn = s.flagIn := by
  rcases evalCond_cases s c with ⟨_, h⟩ | ⟨_, _, h⟩ | ⟨_, _, h⟩ <;> simp [h]
@[simp] theorem evalCond_flagOut (c : Cond) : (evalCond c s).2.flagOut = s.flagOut := by
  rcases evalCond_cases s c with ⟨_, h⟩ | ⟨_, _, h⟩ | ⟨_, _, h⟩ <;> simp [h]
@[simp] theorem evalCond_irqExtraCycles (c : Cond) : (evalCond c s).2.irqExtraCycles = s.irqExtraCycles := by
  rcases evalCond_cases s c with ⟨_, h⟩ | ⟨_, _, h⟩ | ⟨_, _, h⟩ <;> simp [h]
@[simp] theorem evalCond_pcStk (c : Cond) : (evalCond c s).2.pcStk = s.pcStk := by
  rcases evalCond_cases s c with ⟨_, h⟩ | ⟨_, _, h⟩ | ⟨_, _, h⟩ <;> simp [h]
@[simp] theorem evalCond_loopStk (c : Cond) : (evalCond c s).2.loopStk = s.loopStk := by
  rcases evalCond_cases s c with ⟨_, h⟩ | ⟨_, _, h⟩ | ⟨_, _, h⟩ <;> simp [h]
@[simp] theorem evalCond_stsStk (c : Cond) : (evalCond c s).2.stsStk = s.stsStk := by
  rcases evalCond_cases s c with ⟨_, h⟩ | ⟨_, _, h⟩ | ⟨_, _, h⟩ <;> simp [h]
@[simp] theorem evalCond_pm (c : Cond) : (evalCond c s).2.pm = s.pm := by
  rcases evalCond_cases s c with ⟨_, h⟩ | ⟨_, _, h⟩ | ⟨_, _, h⟩ <;> simp [h]
@[simp] theorem evalCond_dm (c : Cond) : (evalCond c s).2.dm = s.dm := by
  rcases evalCond_cases s c with ⟨_, h⟩ | ⟨_, _, h⟩ | ⟨_, _, h⟩ <;> simp [h]
@[simp] theorem evalCond_pmDevices (c : Cond) : (evalCond c s).2.pmDevices = s.pmDevices := by
  rcases evalCond_cases s c with ⟨_, h⟩ | ⟨_, _, h⟩ | ⟨_, _, h⟩ <;> simp [h]
@[simp] theorem evalCond_dmDevices (c : Cond) : (evalCond c s).2.dmDevices = s.dmDevices := by
  rcases evalCond_cases s c with ⟨_, h⟩ | ⟨_, _, h⟩ | ⟨_, _, h⟩ <;> simp [h]
@[simp] theorem evalCond_events (c : Cond) : (evalCond c s).2.events = s.events := by
  rcases evalCond_cases s c with ⟨_, h⟩ | ⟨_, _, h⟩ | ⟨_, _, h⟩ <;> simp [h]
@[simp] theorem evalCond_bank (c : Cond) : (evalCond c s).2.bank = s.bank := by simp [State.bank]
@[simp] theorem evalCond_otherBank (c : Cond) : (evalCond c s).2.otherBank = s.otherBank := by simp [State.otherBank]
@[simp] theorem evalCond_gen (c : Cond) (n : Fin 8) : (evalCond c s).2.gen n = s.gen n := by simp [State.gen]

/-! `wrDreg` -/

@[simp] theorem wrDreg_gens (d : Dreg) (v : Word) : (wrDreg d v s).gens = s.gens := by simp [wrDreg]
@[simp] theorem wrDreg_pc (d : Dreg) (v : Word) : (wrDreg d v s).pc = s.pc := by simp [wrDreg]
@[simp] theorem wrDreg_ppc (d : Dreg) (v : Word) : (wrDreg d v s).ppc = s.ppc := by simp [wrDreg]
@[simp] theorem wrDreg_loopEnd (d : Dreg) (v : Word) : (wrDreg d v s).loopEnd = s.loopEnd := by simp [wrDreg]
@[simp] theorem wrDreg_loopTerm (d : Dreg) (v : Word) : (wrDreg d v s).loopTerm = s.loopTerm := by simp [wrDreg]
@[simp] theorem wrDreg_cntr (d : Dreg) (v : Word) : (wrDreg d v s).cntr = s.cntr := by simp [wrDreg]
@[simp] theorem wrDreg_astat (d : Dreg) (v : Word) : (wrDreg d v s).astat = s.astat := by simp [wrDreg]
@[simp] theorem wrDreg_mstat (d : Dreg) (v : Word) : (wrDreg d v s).mstat = s.mstat := by simp [wrDreg]
@[simp] theorem wrDreg_sstat (d : Dreg) (v : Word) : (wrDreg d v s).sstat = s.sstat := by simp [wrDreg]
@[simp] theorem wrDreg_imask (d : Dreg) (v : Word) : (wrDreg d v s).imask = s.imask := by simp [wrDreg]
@[simp] theorem wrDreg_icntl (d : Dreg) (v : Word) : (wrDreg d v s).icntl = s.icntl := by simp [wrDreg]
@[simp] theorem wrDreg_px (d : Dreg) (v : Word) : (wrDreg d v s).px = s.px := by simp [wrDreg]
@[simp] theorem wrDreg_irqLevel (d : Dreg) (v : Word) : (wrDreg d v s).irqLevel = s.irqLevel := by simp [wrDreg]
@[simp] theorem wrDreg_irqLatch (d : Dreg) (v : Word) : (wrDreg d v s).irqLatch = s.irqLatch := by simp [wrDreg]
@[simp] theorem wrDreg_idle (d : Dreg) (v : Word) : (wrDreg d v s).idle = s.idle := by simp [wrDreg]
@[simp] theorem wrDreg_flagIn (d : Dreg) (v : Word) : (wrDreg d v s).flagIn = s.flagIn := by simp [wrDreg]
@[simp] theorem wrDreg_flagOut (d : Dreg) (v : Word) : (wrDreg d v s).flagOut = s.flagOut := by simp [wrDreg]
@[simp] theorem wrDreg_irqExtraCycles (d : Dreg) (v : Word) : (wrDreg d v s).irqExtraCycles = s.irqExtraCycles := by simp [wrDreg]
@[simp] theorem wrDreg_pcStk (d : Dreg) (v : Word) : (wrDreg d v s).pcStk = s.pcStk := by simp [wrDreg]
@[simp] theorem wrDreg_loopStk (d : Dreg) (v : Word) : (wrDreg d v s).loopStk = s.loopStk := by simp [wrDreg]
@[simp] theorem wrDreg_cntrStk (d : Dreg) (v : Word) : (wrDreg d v s).cntrStk = s.cntrStk := by simp [wrDreg]
@[simp] theorem wrDreg_stsStk (d : Dreg) (v : Word) : (wrDreg d v s).stsStk = s.stsStk := by simp [wrDreg]
@[simp] theorem wrDreg_pm (d : Dreg) (v : Word) : (wrDreg d v s).pm = s.pm := by simp [wrDreg]
@[simp] theorem wrDreg_dm (d : Dreg) (v : Word) : (wrDreg d v s).dm = s.dm := by simp [wrDreg]
@[simp] theorem wrDreg_pmDevices (d : Dreg) (v : Word) : (wrDreg d v s).pmDevices = s.pmDevices := by simp [wrDreg]
@[simp] theorem wrDreg_dmDevices (d : Dreg) (v : Word) : (wrDreg d v s).dmDevices = s.dmDevices := by simp [wrDreg]
@[simp] theorem wrDreg_events (d : Dreg) (v : Word) : (wrDreg d v s).events = s.events := by simp [wrDreg]
@[simp] theorem wrDreg_gen (d : Dreg) (v : Word) (n : Fin 8) : (wrDreg d v s).gen n = s.gen n := by simp [wrDreg]

@[simp] theorem wrDreg_otherBank (d : Dreg) (v : Word) : (wrDreg d v s).otherBank = s.otherBank := by simp [wrDreg]

/-! `aluOp` -/

@[simp] theorem aluOp_gens (f : AluFn) (z : Bool) (y : Yop) (x : Xop) : (aluOp f z y x s).gens = s.gens := by simp [aluOp]
@[simp] theorem aluOp_pc (f : AluFn) (z : Bool) (y : Yop) (x : Xop) : (aluOp f z y x s).pc = s.pc := by simp [aluOp]
@[simp] theorem aluOp_ppc (f : AluFn) (z : Bool) (y : Yop) (x : Xop) : (aluOp f z y x s).ppc = s.ppc := by simp [aluOp]
@[simp] theorem aluOp_loopEnd (f : AluFn) (z : Bool) (y : Yop) (x : Xop) : (aluOp f z y x s).loopEnd = s.loopEnd := by simp [aluOp]
@[simp] theorem aluOp_loopTerm (f : AluFn) (z : Bool) (y : Yop) (x : Xop) : (aluOp f z y x s).loopTerm = s.loopTerm := by simp [aluOp]
@[simp] theorem aluOp_cntr (f : AluFn) (z : Bool) (y : Yop) (x : Xop) : (aluOp f z y x s).cntr = s.cntr := by simp [aluOp]
@[simp] theorem aluOp_mstat (f : AluFn) (z : Bool) (y : Yop) (x : Xop) : (aluOp f z y x s).mstat = s.mstat := by simp [aluOp]
@[simp] theorem aluOp_sstat (f : AluFn) (z : Bool) (y : Yop) (x : Xop) : (aluOp f z y x s).sstat = s.sstat := by simp [aluOp]
@[simp] theorem aluOp_imask (f : AluFn) (z : Bool) (y : Yop) (x : Xop) : (aluOp f z y x s).imask = s.imask := by simp [aluOp]
@[simp] theorem aluOp_icntl (f : AluFn) (z : Bool) (y : Yop) (x : Xop) : (aluOp f z y x s).icntl = s.icntl := by simp [aluOp]
@[simp] theorem aluOp_px (f : AluFn) (z : Bool) (y : Yop) (x : Xop) : (aluOp f z y x s).px = s.px := by simp [aluOp]
@[simp] theorem aluOp_irqLevel (f : AluFn) (z : Bool) (y : Yop) (x : Xop) : (aluOp f z y x s).irqLevel = s.irqLevel := by simp [aluOp]
@[simp] theorem aluOp_irqLatch (f : AluFn) (z : Bool) (y : Yop) (x : Xop) : (aluOp f z y x s).irqLatch = s.irqLatch := by simp [aluOp]
@[simp] theorem aluOp_idle (f : AluFn) (z : Bool) (y : Yop) (x : Xop) : (aluOp f z y x s).idle = s.idle := by simp [aluOp]
@[simp] theorem aluOp_flagIn (f : AluFn) (z : Bool) (y : Yop) (x : Xop) : (aluOp f z y x s).flagIn = s.flagIn := by simp [aluOp]
@[simp] theorem aluOp_flagOut (f : AluFn) (z : Bool) (y : Yop) (x : Xop) : (aluOp f z y x s).flagOut = s.flagOut := by simp [aluOp]
@[simp] theorem aluOp_irqExtraCycles (f : AluFn) (z : Bool) (y : Yop) (x : Xop) : (aluOp f z y x s).irqExtraCycles = s.irqExtraCycles := by simp [aluOp]
@[simp] theorem aluOp_pcStk (f : AluFn) (z : Bool) (y : Yop) (x : Xop) : (aluOp f z y x s).pcStk = s.pcStk := by simp [aluOp]
@[simp] theorem aluOp_loopStk (f : AluFn) (z : Bool) (y : Yop) (x : Xop) : (aluOp f z y x s).loopStk = s.loopStk := by simp [aluOp]
@[simp] theorem aluOp_cntrStk (f : AluFn) (z : Bool) (y : Yop) (x : Xop) : (aluOp f z y x s).cntrStk = s.cntrStk := by simp [aluOp]
@[simp] theorem aluOp_stsStk (f : AluFn) (z : Bool) (y : Yop) (x : Xop) : (aluOp f z y x s).stsStk = s.stsStk := by simp [aluOp]
@[simp] theorem aluOp_pm (f : AluFn) (z : Bool) (y : Yop) (x : Xop) : (aluOp f z y x s).pm = s.pm := by simp [aluOp]
@[simp] theorem aluOp_dm (f : AluFn) (z : Bool) (y : Yop) (x : Xop) : (aluOp f z y x s).dm = s.dm := by simp [aluOp]
@[simp] theorem aluOp_pmDevices (f : AluFn) (z : Bool) (y : Yop) (x : Xop) : (aluOp f z y x s).pmDevices = s.pmDevices := by simp [aluOp]
@[simp] theorem aluOp_dmDevices (f : AluFn) (z : Bool) (y : Yop) (x : Xop) : (aluOp f z y x s).dmDevices = s.dmDevices := by simp [aluOp]
@[simp] theorem aluOp_events (f : AluFn) (z : Bool) (y : Yop) (x : Xop) : (aluOp f z y x s).events = s.events := by simp [aluOp]
@[simp] theorem aluOp_gen (f : AluFn) (z : Bool) (y : Yop) (x : Xop) (n : Fin 8) : (aluOp f z y x s).gen n = s.gen n := by simp [aluOp]

@[simp] theorem aluOp_otherBank (f : AluFn) (z : Bool) (y : Yop) (x : Xop) : (aluOp f z y x s).otherBank = s.otherBank := by simp [aluOp]

theorem macOp_shape (f : MacFn) (z : Bool) (y : Yop) (x : Xop) :
    ∃ b v, macOp f z y x s = (s.setBank b).setAstat v := by
  cases f <;> first | exact ⟨_, _, rfl⟩ | exact ⟨s.bank, s.astat, by simp [macOp]; rfl⟩

/-! `macOp` -/

@[simp] theorem macOp_gens (f : MacFn) (z : Bool) (y : Yop) (x : Xop) : (macOp f z y x s).gens = s.gens := by
  obtain ⟨b, v, h⟩ := macOp_shape s f z y x; simp [h]
@[simp] theorem macOp_pc (f : MacFn) (z : Bool) (y : Yop) (x : Xop) : (macOp f z y x s).pc = s.pc := by
  obtain ⟨b, v, h⟩ := macOp_shape s f z y x; simp [h]
@[simp] theorem macOp_ppc (f : MacFn) (z : Bool) (y : Yop) (x : Xop) : (macOp f z y x s).ppc = s.ppc := by
  obtain ⟨b, v, h⟩ := macOp_shape s f z y x; simp [h]
@[simp] theorem macOp_loopEnd (f : MacFn) (z : Bool) (y : Yop) (x : Xop) : (macOp f z y x s).loopEnd = s.loopEnd := by
  obtain ⟨b, v, h⟩ := macOp_shape s f z y x; simp [h]
@[simp] theorem macOp_loopTerm (f : MacFn) (z : Bool) (y : Yop) (x : Xop) : (macOp f z y x s).loopTerm = s.loopTerm := by
  obtain ⟨b, v, h⟩ := macOp_shape s f z y x; simp [h]
@[simp] theorem macOp_cntr (f : MacFn) (z : Bool) (y : Yop) (x : Xop) : (macOp f z y x s).cntr = s.cntr := by
  obtain ⟨b, v, h⟩ := macOp_shape s f z y x; simp [h]
@[simp] theorem macOp_mstat (f : MacFn) (z : Bool) (y : Yop) (x : Xop) : (macOp f z y x s).mstat = s.mstat := by
  obtain ⟨b, v, h⟩ := macOp_shape s f z y x; simp [h]
@[simp] theorem macOp_sstat (f : MacFn) (z : Bool) (y : Yop) (x : Xop) : (macOp f z y x s).sstat = s.sstat := by
  obtain ⟨b, v, h⟩ := macOp_shape s f z y x; simp [h]
@[simp] theorem macOp_imask (f : MacFn) (z : Bool) (y : Yop) (x : Xop) : (macOp f z y x s).imask = s.imask := by
  obtain ⟨b, v, h⟩ := macOp_shape s f z y x; simp [h]
@[simp] theorem macOp_icntl (f : MacFn) (z : Bool) (y : Yop) (x : Xop) : (macOp f z y x s).icntl = s.icntl := by
  obtain ⟨b, v, h⟩ := macOp_shape s f z y x; simp [h]
@[simp] theorem macOp_px (f : MacFn) (z : Bool) (y : Yop) (x : Xop) : (macOp f z y x s).px = s.px := by
  obtain ⟨b, v, h⟩ := macOp_shape s f z y x; simp [h]
@[simp] theorem macOp_irqLevel (f : MacFn) (z : Bool) (y : Yop) (x : Xop) : (macOp f z y x s).irqLevel = s.irqLevel := by
  obtain ⟨b, v, h⟩ := macOp_shape s f z y x; simp [h]
@[simp] theorem macOp_irqLatch (f : MacFn) (z : Bool) (y : Yop) (x : Xop) : (macOp f z y x s).irqLatch = s.irqLatch := by
  obtain ⟨b, v, h⟩ := macOp_shape s f z y x; simp [h]
@[simp] theorem macOp_idle (f : MacFn) (z : Bool) (y : Yop) (x : Xop) : (macOp f z y x s).idle = s.idle := by
  obtain ⟨b, v, h⟩ := macOp_shape s f z y x; simp [h]
@[simp] theorem macOp_flagIn (f : MacFn) (z : Bool) (y : Yop) (x : Xop) : (macOp f z y x s).flagIn = s.flagIn := by
  obtain ⟨b, v, h⟩ := macOp_shape s f z y x; simp [h]
@[simp] theorem macOp_flagOut (f : MacFn) (z : Bool) (y : Yop) (x : Xop) : (macOp f z y x s).flagOut = s.flagOut := by
  obtain ⟨b, v, h⟩ := macOp_shape s f z y x; simp [h]
@[simp] theorem macOp_irqExtraCycles (f : MacFn) (z : Bool) (y : Yop) (x : Xop) : (macOp f z y x s).irqExtraCycles = s.irqExtraCycles := by
  obtain ⟨b, v, h⟩ := macOp_shape s f z y x; simp [h]
@[simp] theorem macOp_pcStk (f : MacFn) (z : Bool) (y : Yop) (x : Xop) : (macOp f z y x s).pcStk = s.pcStk := by
  obtain ⟨b, v, h⟩ := macOp_shape s f z y x; simp [h]
@[simp] theorem macOp_loopStk (f : MacFn) (z : Bool) (y : Yop) (x : Xop) : (macOp f z y x s).loopStk = s.loopStk := by
  obtain ⟨b, v, h⟩ := macOp_shape s f z y x; simp [h]
@[simp] theorem macOp_cntrStk (f : MacFn) (z : Bool) (y : Yop) (x : Xop) : (macOp f z y x s).cntrStk = s.cntrStk := by
  obtain ⟨b, v, h⟩ := macOp_shape s f z y x; simp [h]
@[simp] theorem macOp_stsStk (f : MacFn) (z : Bool) (y : Yop) (x : Xop) : (macOp f z y x s).stsStk = s.stsStk := by
  obtain ⟨b, v, h⟩ := macOp_shape s f z y x; simp [h]
@[simp] theorem macOp_pm (f : MacFn) (z : Bool) (y : Yop) (x : Xop) : (macOp f z y x s).pm = s.pm := by
  obtain ⟨b, v, h⟩ := macOp_shape s f z y x; simp [h]
@[simp] theorem macOp_dm (f : MacFn) (z : Bool) (y : Yop) (x : Xop) : (macOp f z y x s).dm = s.dm := by
  obtain ⟨b, v, h⟩ := macOp_shape s f z y x; simp [h]
@[simp] theorem macOp_pmDevices (f : MacFn) (z : Bool) (y : Yop) (x : Xop) : (macOp f z y x s).pmDevices = s.pmDevices := by
  obtain ⟨b, v, h⟩ := macOp_shape s f z y x; simp [h]
@[simp] theorem macOp_dmDevices (f : MacFn) (z : Bool) (y : Yop) (x : Xop) : (macOp f z y x s).dmDevices = s.dmDevices := by
  obtain ⟨b, v, h⟩ := macOp_shape s f z y x; simp [h]
@[simp] theorem macOp_events (f : MacFn) (z : Bool) (y : Yop) (x : Xop) : (macOp f z y x s).events = s.events := by
  obtain ⟨b, v, h⟩ := macOp_shape s f z y x; simp [h]
@[simp] theorem macOp_gen (f : MacFn) (z : Bool) (y : Yop) (x : Xop) (n : Fin 8) : (macOp f z y x s).gen n = s.gen n := by
 obtain ⟨b, v, h⟩ := macOp_shape s f z y x; simp [h]

@[simp] theorem macOp_otherBank (f : MacFn) (z : Bool) (y : Yop) (x : Xop) : (macOp f z y x s).otherBank = s.otherBank := by
  obtain ⟨b, v, h⟩ := macOp_shape s f z y x; simp [h]

/-! `compute` -/

@[simp] theorem compute_gens (f : Amf) (z : Bool) (y : Yop) (x : Xop) : (compute f z y x s).gens = s.gens := by cases f <;> simp [compute]
@[simp] theorem compute_pc (f : Amf) (z : Bool) (y : Yop) (x : Xop) : (compute f z y x s).pc = s.pc := by cases f <;> simp [compute]
@[simp] theorem compute_ppc (f : Amf) (z : Bool) (y : Yop) (x : Xop) : (compute f z y x s).ppc = s.ppc := by cases f <;> simp [compute]
@[simp] theorem compute_loopEnd (f : Amf) (z : Bool) (y : Yop) (x : Xop) : (compute f z y x s).loopEnd = s.loopEnd := by cases f <;> simp [compute]
@[simp] theorem compute_loopTerm (f : Amf) (z : Bool) (y : Yop) (x : Xop) : (compute f z y x s).loopTerm = s.loopTerm := by cases f <;> simp [compute]
@[simp] theorem compute_cntr (f : Amf) (z : Bool) (y : Yop) (x : Xop) : (compute f z y x s).cntr = s.cntr := by cases f <;> simp [compute]
@[simp] theorem compute_mstat (f : Amf) (z : Bool) (y : Yop) (x : Xop) : (compute f z y x s).mstat = s.mstat := by cases f <;> simp [compute]
@[simp] theorem compute_sstat (f : Amf) (z : Bool) (y : Yop) (x : Xop) : (compute f z y x s).sstat = s.sstat := by cases f <;> simp [compute]
@[simp] theorem compute_imask (f : Amf) (z : Bool) (y : Yop) (x : Xop) : (compute f z y x s).imask = s.imask := by cases f <;> simp [compute]
@[simp] theorem compute_icntl (f : Amf) (z : Bool) (y : Yop) (x : Xop) : (compute f z y x s).icntl = s.icntl := by cases f <;> simp [compute]
@[simp] theorem compute_px (f : Amf) (z : Bool) (y : Yop) (x : Xop) : (compute f z y x s).px = s.px := by cases f <;> simp [compute]
@[simp] theorem compute_irqLevel (f : Amf) (z : Bool) (y : Yop) (x : Xop) : (compute f z y x s).irqLevel = s.irqLevel := by cases f <;> simp [compute]
@[simp] theorem compute_irqLatch (f : Amf) (z : Bool) (y : Yop) (x : Xop) : (compute f z y x s).irqLatch = s.irqLatch := by cases f <;> simp [compute]
@[simp] theorem compute_idle (f : Amf) (z : Bool) (y : Yop) (x : Xop) : (compute f z y x s).idle = s.idle := by cases f <;> simp [compute]
@[simp] theorem compute_flagIn (f : Amf) (z : Bool) (y : Yop) (x : Xop) : (compute f z y x s).flagIn = s.flagIn := by cases f <;> simp [compute]
@[simp] theorem compute_flagOut (f : Amf) (z : Bool) (y : Yop) (x : Xop) : (compute f z y x s).flagOut = s.flagOut := by cases f <;> simp [compute]
@[simp] theorem compute_irqExtraCycles (f : Amf) (z : Bool) (y : Yop) (x : Xop) : (compute f z y x s).irqExtraCycles = s.irqExtraCycles := by cases f <;> simp [compute]
@[simp] theorem compute_pcStk (f : Amf) (z : Bool) (y : Yop) (x : Xop) : (compute f z y x s).pcStk = s.pcStk := by cases f <;> simp [compute]
@[simp] theorem compute_loopStk (f : Amf) (z : Bool) (y : Yop) (x : Xop) : (compute f z y x s).loopStk = s.loopStk := by cases f <;> simp [compute]
@[simp] theorem compute_cntrStk (f : Amf) (z : Bool) (y : Yop) (x : Xop) : (compute f z y x s).cntrStk = s.cntrStk := by cases f <;> simp [compute]
@[simp] theorem compute_stsStk (f : Amf) (z : Bool) (y : Yop) (x : Xop) : (compute f z y x s).stsStk = s.stsStk := by cases f <;> simp [compute]
@[simp] theorem compute_pm (f : Amf) (z : Bool) (y : Yop) (x : Xop) : (compute f z y x s).pm = s.pm := by cases f <;> simp [compute]
@[simp] theorem compute_dm (f : Amf) (z : Bool) (y : Yop) (x : Xop) : (compute f z y x s).dm = s.dm := by cases f <;> simp [compute]
@[simp] theorem compute_pmDevices (f : Amf) (z : Bool) (y : Yop) (x : Xop) : (compute f z y x s).pmDevices = s.pmDevices := by cases f <;> simp [compute]
@[simp] theorem compute_dmDevices (f : Amf) (z : Bool) (y : Yop) (x : Xop) : (compute f z y x s).dmDevices = s.dmDevices := by cases f <;> simp [compute]
@[simp] theorem compute_events (f : Amf) (z : Bool) (y : Yop) (x : Xop) : (compute f z y x s).events = s.events := by cases f <;> simp [compute]
@[simp] theorem compute_gen (f : Amf) (z : Bool) (y : Yop) (x : Xop) (n : Fin 8) : (compute f z y x s).gen n = s.gen n := by cases f <;> simp [compute]

@[simp] theorem compute_otherBank (f : Amf) (z : Bool) (y : Yop) (x : Xop) : (compute f z y x s).otherBank = s.otherBank := by cases f <;> simp [compute]

/-! `divShift` -/

@[simp] theorem divShift_gens (r : Word) (q a : Bool) : (divShift r q a s).gens = s.gens := by simp [divShift]
@[simp] theorem divShift_pc (r : Word) (q a : Bool) : (divShift r q a s).pc = s.pc := by simp [divShift]
@[simp] theorem divShift_ppc (r : Word) (q a : Bool) : (divShift r q a s).ppc = s.ppc := by simp [divShift]
@[simp] theorem divShift_loopEnd (r : Word) (q a : Bool) : (divShift r q a s).loopEnd = s.loopEnd := by simp [divShift]
@[simp] theorem divShift_loopTerm (r : Word) (q a : Bool) : (divShift r q a s).loopTerm = s.loopTerm := by simp [divShift]
@[simp] theorem divShift_cntr (r : Word) (q a : Bool) : (divShift r q a s).cntr = s.cntr := by simp [divShift]
@[simp] theorem divShift_mstat (r : Word) (q a : Bool) : (divShift r q a s).mstat = s.mstat := by simp [divShift]
@[simp] theorem divShift_sstat (r : Word) (q a : Bool) : (divShift r q a s).sstat = s.sstat := by simp [divShift]
@[simp] theorem divShift_imask (r : Word) (q a : Bool) : (divShift r q a s).imask = s.imask := by simp [divShift]
@[simp] theorem divShift_icntl (r : Word) (q a : Bool) : (divShift r q a s).icntl = s.icntl := by simp [divShift]
@[simp] theorem divShift_px (r : Word) (q a : Bool) : (divShift r q a s).px = s.px := by simp [divShift]
@[simp] theorem divShift_irqLevel (r : Word) (q a : Bool) : (divShift r q a s).irqLevel = s.irqLevel := by simp [divShift]
@[simp] theorem divShift_irqLatch (r : Word) (q a : Bool) : (divShift r q a s).irqLatch = s.irqLatch := by simp [divShift]
@[simp] theorem divShift_idle (r : Word) (q a : Bool) : (divShift r q a s).idle = s.idle := by simp [divShift]
@[simp] theorem divShift_flagIn (r : Word) (q a : Bool) : (divShift r q a s).flagIn = s.flagIn := by simp [divShift]
@[simp] theorem divShift_flagOut (r : Word) (q a : Bool) : (divShift r q a s).flagOut = s.flagOut := by simp [divShift]
@[simp] theorem divShift_irqExtraCycles (r : Word) (q a : Bool) : (divShift r q a s).irqExtraCycles = s.irqExtraCycles := by simp [divShift]
@[simp] theorem divShift_pcStk (r : Word) (q a : Bool) : (divShift r q a s).pcStk = s.pcStk := by simp [divShift]
@[simp] theorem divShift_loopStk (r : Word) (q a : Bool) : (divShift r q a s).loopStk = s.loopStk := by simp [divShift]
@[simp] theorem divShift_cntrStk (r : Word) (q a : Bool) : (divShift r q a s).cntrStk = s.cntrStk := by simp [divShift]
@[simp] theorem divShift_stsStk (r : Word) (q a : Bool) : (divShift r q a s).stsStk = s.stsStk := by simp [divShift]
@[simp] theorem divShift_pm (r : Word) (q a : Bool) : (divShift r q a s).pm = s.pm := by simp [divShift]
@[simp] theorem divShift_dm (r : Word) (q a : Bool) : (divShift r q a s).dm = s.dm := by simp [divShift]
@[simp] theorem divShift_pmDevices (r : Word) (q a : Bool) : (divShift r q a s).pmDevices = s.pmDevices := by simp [divShift]
@[simp] theorem divShift_dmDevices (r : Word) (q a : Bool) : (divShift r q a s).dmDevices = s.dmDevices := by simp [divShift]
@[simp] theorem divShift_events (r : Word) (q a : Bool) : (divShift r q a s).events = s.events := by simp [divShift]
@[simp] theorem divShift_gen (r : Word) (q a : Bool) (n : Fin 8) : (divShift r q a s).gen n = s.gen n := by simp [divShift]

@[simp] theorem divShift_otherBank (r : Word) (q a : Bool) : (divShift r q a s).otherBank = s.otherBank := by simp [divShift]

/-! The shifter writes the active bank and the flags byte, and nothing else. -/

theorem shiftOp_shape (g : ShiftFn) (x : Xop) (k : Int) :
    ∃ b f, shiftOp g x k s = (s.setBank b).setAstat f := by
  have keep : ∀ b, ∃ b' f, s.setBank b = (s.setBank b').setAstat f := fun b =>
    ⟨b, (s.setBank b).astat, rfl⟩
  have same : ∃ b' f, s = (s.setBank b').setAstat f := ⟨s.bank, s.astat, by simp; rfl⟩
  cases g <;> simp only [shiftOp, putSr, orSr, expHi, expHix, expLo, expAdj] <;>
    first
    | exact keep _
    | exact ⟨_, _, rfl⟩
    | (split <;> first | exact keep _ | exact same | exact ⟨_, _, rfl⟩)

@[simp] theorem shiftOp_gens (g : ShiftFn) (x : Xop) (k : Int) : (shiftOp g x k s).gens = s.gens := by
  obtain ⟨b, f, h⟩ := shiftOp_shape s g x k; simp [h]
@[simp] theorem shiftOp_pc (g : ShiftFn) (x : Xop) (k : Int) : (shiftOp g x k s).pc = s.pc := by
  obtain ⟨b, f, h⟩ := shiftOp_shape s g x k; simp [h]
@[simp] theorem shiftOp_ppc (g : ShiftFn) (x : Xop) (k : Int) : (shiftOp g x k s).ppc = s.ppc := by
  obtain ⟨b, f, h⟩ := shiftOp_shape s g x k; simp [h]
@[simp] theorem shiftOp_loopEnd (g : ShiftFn) (x : Xop) (k : Int) : (shiftOp g x k s).loopEnd = s.loopEnd := by
  obtain ⟨b, f, h⟩ := shiftOp_shape s g x k; simp [h]
@[simp] theorem shiftOp_loopTerm (g : ShiftFn) (x : Xop) (k : Int) : (shiftOp g x k s).loopTerm = s.loopTerm := by
  obtain ⟨b, f, h⟩ := shiftOp_shape s g x k; simp [h]
@[simp] theorem shiftOp_cntr (g : ShiftFn) (x : Xop) (k : Int) : (shiftOp g x k s).cntr = s.cntr := by
  obtain ⟨b, f, h⟩ := shiftOp_shape s g x k; simp [h]
@[simp] theorem shiftOp_mstat (g : ShiftFn) (x : Xop) (k : Int) : (shiftOp g x k s).mstat = s.mstat := by
  obtain ⟨b, f, h⟩ := shiftOp_shape s g x k; simp [h]
@[simp] theorem shiftOp_sstat (g : ShiftFn) (x : Xop) (k : Int) : (shiftOp g x k s).sstat = s.sstat := by
  obtain ⟨b, f, h⟩ := shiftOp_shape s g x k; simp [h]
@[simp] theorem shiftOp_imask (g : ShiftFn) (x : Xop) (k : Int) : (shiftOp g x k s).imask = s.imask := by
  obtain ⟨b, f, h⟩ := shiftOp_shape s g x k; simp [h]
@[simp] theorem shiftOp_icntl (g : ShiftFn) (x : Xop) (k : Int) : (shiftOp g x k s).icntl = s.icntl := by
  obtain ⟨b, f, h⟩ := shiftOp_shape s g x k; simp [h]
@[simp] theorem shiftOp_px (g : ShiftFn) (x : Xop) (k : Int) : (shiftOp g x k s).px = s.px := by
  obtain ⟨b, f, h⟩ := shiftOp_shape s g x k; simp [h]
@[simp] theorem shiftOp_irqLevel (g : ShiftFn) (x : Xop) (k : Int) : (shiftOp g x k s).irqLevel = s.irqLevel := by
  obtain ⟨b, f, h⟩ := shiftOp_shape s g x k; simp [h]
@[simp] theorem shiftOp_irqLatch (g : ShiftFn) (x : Xop) (k : Int) : (shiftOp g x k s).irqLatch = s.irqLatch := by
  obtain ⟨b, f, h⟩ := shiftOp_shape s g x k; simp [h]
@[simp] theorem shiftOp_idle (g : ShiftFn) (x : Xop) (k : Int) : (shiftOp g x k s).idle = s.idle := by
  obtain ⟨b, f, h⟩ := shiftOp_shape s g x k; simp [h]
@[simp] theorem shiftOp_flagIn (g : ShiftFn) (x : Xop) (k : Int) : (shiftOp g x k s).flagIn = s.flagIn := by
  obtain ⟨b, f, h⟩ := shiftOp_shape s g x k; simp [h]
@[simp] theorem shiftOp_flagOut (g : ShiftFn) (x : Xop) (k : Int) : (shiftOp g x k s).flagOut = s.flagOut := by
  obtain ⟨b, f, h⟩ := shiftOp_shape s g x k; simp [h]
@[simp] theorem shiftOp_irqExtraCycles (g : ShiftFn) (x : Xop) (k : Int) : (shiftOp g x k s).irqExtraCycles = s.irqExtraCycles := by
  obtain ⟨b, f, h⟩ := shiftOp_shape s g x k; simp [h]
@[simp] theorem shiftOp_pcStk (g : ShiftFn) (x : Xop) (k : Int) : (shiftOp g x k s).pcStk = s.pcStk := by
  obtain ⟨b, f, h⟩ := shiftOp_shape s g x k; simp [h]
@[simp] theorem shiftOp_loopStk (g : ShiftFn) (x : Xop) (k : Int) : (shiftOp g x k s).loopStk = s.loopStk := by
  obtain ⟨b, f, h⟩ := shiftOp_shape s g x k; simp [h]
@[simp] theorem shiftOp_cntrStk (g : ShiftFn) (x : Xop) (k : Int) : (shiftOp g x k s).cntrStk = s.cntrStk := by
  obtain ⟨b, f, h⟩ := shiftOp_shape s g x k; simp [h]
@[simp] theorem shiftOp_stsStk (g : ShiftFn) (x : Xop) (k : Int) : (shiftOp g x k s).stsStk = s.stsStk := by
  obtain ⟨b, f, h⟩ := shiftOp_shape s g x k; simp [h]
@[simp] theorem shiftOp_pm (g : ShiftFn) (x : Xop) (k : Int) : (shiftOp g x k s).pm = s.pm := by
  obtain ⟨b, f, h⟩ := shiftOp_shape s g x k; simp [h]
@[simp] theorem shiftOp_dm (g : ShiftFn) (x : Xop) (k : Int) : (shiftOp g x k s).dm = s.dm := by
  obtain ⟨b, f, h⟩ := shiftOp_shape s g x k; simp [h]
@[simp] theorem shiftOp_pmDevices (g : ShiftFn) (x : Xop) (k : Int) : (shiftOp g x k s).pmDevices = s.pmDevices := by
  obtain ⟨b, f, h⟩ := shiftOp_shape s g x k; simp [h]
@[simp] theorem shiftOp_dmDevices (g : ShiftFn) (x : Xop) (k : Int) : (shiftOp g x k s).dmDevices = s.dmDevices := by
  obtain ⟨b, f, h⟩ := shiftOp_shape s g x k; simp [h]
@[simp] theorem shiftOp_events (g : ShiftFn) (x : Xop) (k : Int) : (shiftOp g x k s).events = s.events := by
  obtain ⟨b, f, h⟩ := shiftOp_shape s g x k; simp [h]
@[simp] theorem shiftOp_otherBank (g : ShiftFn) (x : Xop) (k : Int) : (shiftOp g x k s).otherBank = s.otherBank := by
  obtain ⟨b, f, h⟩ := shiftOp_shape s g x k; simp [h]
@[simp] theorem shiftOp_gen (g : ShiftFn) (x : Xop) (k : Int) (n : Fin 8) : (shiftOp g x k s).gen n = s.gen n := by
  obtain ⟨b, f, h⟩ := shiftOp_shape s g x k; simp [h]

end Sys2Proof.Machine
end

