-- ==== Sys2Proof/Laws/Memory.lean ====
section
/-! SUPPORT. A read after a write, and the canonical form: every memory operation keeps it, and the reset
state has it. -/

namespace Sys2Proof.Machine

/-! ## A byte -/

theorem Memory.read_filter (m : Memory) (a b : Nat) :
    Memory.read (m.filter fun c => c.1 != a) b = if b = a then unlisted else m.read b := by
  induction m with
  | nil => simp [Memory.read]
  | cons c m ih =>
    obtain ⟨d, v⟩ := c
    by_cases hd : d = a
    · subst hd
      by_cases hb : b = d
      · rw [if_pos hb] at ih ⊢
        simpa using ih
      · simp [Memory.read, ih, hb]
    · by_cases hb : b = d
      · subst hb
        simp [Memory.read, hd]
      · simp [Memory.read, hd, hb, ih]

theorem Memory.read_insertCell (m : Memory) (a b : Nat) (v : Byte) (h : ∀ c ∈ m, c.1 ≠ a) :
    (m.insertCell a v).read b = if b = a then v else m.read b := by
  induction m with
  | nil => simp [Memory.insertCell, Memory.read]
  | cons c m ih =>
    obtain ⟨d, u⟩ := c
    have hd : d ≠ a := h (d, u) (by simp)
    have ih := ih fun c hc => h c (by simp [hc])
    by_cases hlt : a < d
    · simp [Memory.insertCell, hlt, Memory.read]
    · by_cases hb : b = a
      · subst hb
        simp [Memory.insertCell, hlt, Memory.read, Ne.symm hd, ih]
      · simp [Memory.insertCell, hlt, Memory.read, ih, hb]

/-- What a write does to every byte. -/
theorem Memory.read_write (m : Memory) (a b : Nat) (v : Byte) :
    (m.write a v).read b = if b = a then v else m.read b := by
  unfold Memory.write
  by_cases hv : v = unlisted
  · simp only [hv, if_true, Memory.read_filter]
  · simp only [hv, if_false]
    rw [Memory.read_insertCell _ _ _ _ (by simp), Memory.read_filter]
    by_cases hb : b = a <;> simp [hb]

@[simp] theorem Memory.read_write_same (m : Memory) (a : Nat) (v : Byte) : (m.write a v).read a = v := by
  simp [Memory.read_write]

theorem Memory.read_write_other {a b : Nat} (h : b ≠ a) (m : Memory) (v : Byte) :
    (m.write a v).read b = m.read b := by
  simp [Memory.read_write, h]

/-! ## The canonical form -/

theorem Memory.wfFrom_mono {lo : Nat} {hi : Option Nat} {m : Memory} (h : Memory.wfFrom (some lo) m = true)
    (hle : ∀ x ∈ hi, x ≤ lo) : Memory.wfFrom hi m = true := by
  cases m with
  | nil => rfl
  | cons c m =>
    obtain ⟨d, u⟩ := c
    simp only [Memory.wfFrom, Bool.and_eq_true, Option.all_some, decide_eq_true_eq] at h ⊢
    refine ⟨⟨?_, h.1.2⟩, h.2⟩
    cases hi with
    | none => rfl
    | some x =>
      have := hle x rfl
      simp only [Option.all_some, decide_eq_true_eq]
      omega

theorem Memory.wfFrom_filter (m : Memory) (lo : Option Nat) (p : Host.Cell → Bool)
    (h : Memory.wfFrom lo m = true) : Memory.wfFrom lo (m.filter p) = true := by
  induction m generalizing lo with
  | nil => rfl
  | cons c m ih =>
    obtain ⟨d, u⟩ := c
    simp only [Memory.wfFrom, Bool.and_eq_true] at h
    by_cases hp : p (d, u) = true
    · simp only [List.filter_cons_of_pos hp, Memory.wfFrom, Bool.and_eq_true]
      exact ⟨h.1, ih _ h.2⟩
    · rw [List.filter_cons_of_neg hp]
      refine ih _ (Memory.wfFrom_mono h.2 fun x hx => ?_)
      have := h.1.1
      rw [hx] at this
      simp only [Option.all_some, decide_eq_true_eq] at this
      omega

theorem Memory.wfFrom_insertCell (m : Memory) (lo : Option Nat) (a : Nat) (v : Byte) (hv : v ≠ unlisted)
    (hlo : ∀ x ∈ lo, x < a) (hm : ∀ c ∈ m, c.1 ≠ a) (h : Memory.wfFrom lo m = true) :
    Memory.wfFrom lo (m.insertCell a v) = true := by
  have hlo' : lo.all (· < a) = true := by
    cases lo with
    | none => rfl
    | some x => simpa using hlo x rfl
  induction m generalizing lo with
  | nil => simp [Memory.insertCell, Memory.wfFrom, hv, hlo']
  | cons c m ih =>
    obtain ⟨d, u⟩ := c
    simp only [Memory.wfFrom, Bool.and_eq_true] at h
    by_cases hlt : a < d
    · simp [Memory.insertCell, hlt, Memory.wfFrom, hv, hlo', h.2, bne_iff_ne.mp h.1.2]
    · have hd : d < a := by
        have : d ≠ a := hm (d, u) (by simp)
        omega
      have hda : (some d).all (· < a) = true := by simpa using hd
      simp only [Memory.insertCell, hlt, if_false, Memory.wfFrom, Bool.and_eq_true]
      refine ⟨h.1, ih (some d) ?_ (fun c hc => hm c (by simp [hc])) h.2 hda⟩
      intro x hx
      cases hx
      exact hd

theorem Memory.write_wf (m : Memory) (a : Nat) (v : Byte) (h : m.wf = true) : (m.write a v).wf = true := by
  unfold Memory.write
  have hf : Memory.wfFrom none (m.filter fun c => c.1 != a) = true := Memory.wfFrom_filter _ _ _ h
  by_cases hv : v = unlisted
  · simpa only [hv, if_true, Memory.wf] using hf
  · simp only [hv, if_false, Memory.wf]
    exact Memory.wfFrom_insertCell _ _ _ _ hv (by simp) (by simp) hf

theorem Memory.putPm_wf (m : Memory) (a : Addr) (w : OpWord) (h : m.wf = true) : (m.putPm a w).wf = true :=
  Memory.write_wf _ _ _ (Memory.write_wf _ _ _ (Memory.write_wf _ _ _ h))

theorem Memory.putDm_wf (m : Memory) (a : Addr) (v : Word) (h : m.wf = true) : (m.putDm a v).wf = true :=
  Memory.write_wf _ _ _ (Memory.write_wf _ _ _ h)

/-! ## Only bytes that exist -/

theorem Memory.mem_insertCell {m : Memory} {a : Nat} {v : Byte} {c : Host.Cell} (h : c ∈ m.insertCell a v) :
    c = (a, v) ∨ c ∈ m := by
  induction m with
  | nil => exact .inl (by simpa [Memory.insertCell] using h)
  | cons d m ih =>
    obtain ⟨b, u⟩ := d
    unfold Memory.insertCell at h
    split at h
    · simpa using h
    · rcases List.mem_cons.mp h with h | h
      · exact .inr (by simp [h])
      · exact (ih h).imp id fun h => by simp [h]

theorem Memory.mem_write {m : Memory} {a : Nat} {v : Byte} {c : Host.Cell} (h : c ∈ m.write a v) :
    c = (a, v) ∨ c ∈ m := by
  unfold Memory.write at h
  split at h
  · exact .inr (List.mem_filter.mp h).1
  · exact (Memory.mem_insertCell h).imp id fun h => (List.mem_filter.mp h).1

/-- A property of addresses holds of every cell after a write, if it held before and holds of the address
written. -/
theorem Memory.all_write {m : Memory} {a : Nat} {v : Byte} {p : Nat → Bool}
    (h : (m.all fun c => p c.1) = true) (ha : p a = true) :
    ((m.write a v).all fun c => p c.1) = true := by
  rw [List.all_eq_true] at h ⊢
  intro c hc
  rcases Memory.mem_write hc with rfl | hc
  · exact ha
  · exact h c hc

theorem Memory.putPm_inSpace (m : Memory) (a : Addr) (w : OpWord) (h : pmInSpace m = true) :
    pmInSpace (m.putPm a w) = true := by
  have ha := a.isLt
  unfold pmInSpace Memory.putPm pmByte at *
  refine Memory.all_write (p := fun n => n < 4 * 2 ^ 14 && n % 4 != 3)
    (Memory.all_write (p := fun n => n < 4 * 2 ^ 14 && n % 4 != 3)
      (Memory.all_write (p := fun n => n < 4 * 2 ^ 14 && n % 4 != 3) h ?_) ?_) ?_ <;>
    simp only [Bool.and_eq_true, decide_eq_true_eq, bne_iff_ne] <;> omega

theorem Memory.putDm_inSpace (m : Memory) (a : Addr) (v : Word) (h : dmInSpace m = true) :
    dmInSpace (m.putDm a v) = true := by
  have ha := a.isLt
  unfold dmInSpace Memory.putDm dmByte at *
  refine Memory.all_write (p := fun n => n < 2 * 2 ^ 14)
    (Memory.all_write (p := fun n => n < 2 * 2 ^ 14) h ?_) ?_ <;>
    simp only [decide_eq_true_eq] <;> omega

/-! ## The port: a write keeps the form, at a device too -/

theorem pmWrite_wf (a : Addr) (w : OpWord) (s : State) (h : s.pm.wf = true) : (pmWrite a w s).pm.wf = true := by
  unfold pmWrite
  split
  · exact h
  · exact Memory.putPm_wf _ _ _ h

theorem dmWrite_wf (a : Addr) (v : Word) (s : State) (h : s.dm.wf = true) : (dmWrite a v s).dm.wf = true := by
  unfold dmWrite
  split
  · exact h
  · exact Memory.putDm_wf _ _ _ h

theorem pmWrite_inSpace (a : Addr) (w : OpWord) (s : State) (h : pmInSpace s.pm = true) :
    pmInSpace (pmWrite a w s).pm = true := by
  unfold pmWrite
  split
  · exact h
  · exact Memory.putPm_inSpace _ _ _ h

theorem dmWrite_inSpace (a : Addr) (v : Word) (s : State) (h : dmInSpace s.dm = true) :
    dmInSpace (dmWrite a v s).dm = true := by
  unfold dmWrite
  split
  · exact h
  · exact Memory.putDm_inSpace _ _ _ h

/-! ## The reset state -/

theorem reset_pm_wf : State.reset.pm.wf = true := rfl

theorem reset_dm_wf : State.reset.dm.wf = true := rfl

end Sys2Proof.Machine
end

