-- ==== Sys2Proof/Laws/Ops.lean ====
section
/-! SUPPORT. For each shared operation, what it can do: the hardware stacks, the arbitration pass and the
interrupt entry, the loop check, the step, the register write, the memory accesses. -/

namespace Sys2Proof.Machine

variable (s : State)

/-! ## Hardware stacks (R30, R35, R36) -/

variable {α : Type} {k : Nat}

@[simp] theorem HwStack.push_sp (st : HwStack α k) (v : α) : (st.push v).sp = st.sp + 1 := rfl

@[simp] theorem HwStack.push_cells (st : HwStack α k) (v : α) :
    (st.push v).cells = st.cells.set st.sp.toNat v st.sp.isLt := rfl

@[simp] theorem HwStack.pop_sp (st : HwStack α k) : st.pop.sp = st.sp - 1 := rfl

@[simp] theorem HwStack.pop_cells (st : HwStack α k) : st.pop.cells = st.cells := rfl

/-- What was pushed last is on top. -/
@[simp] theorem HwStack.top_push (st : HwStack α k) (v : α) : (st.push v).top = v := by
  simp [HwStack.top]

/-- A pop undoes the push on the pointer. -/
@[simp] theorem HwStack.pop_push_sp (st : HwStack α k) (v : α) : (st.push v).pop.sp = st.sp :=
  BitVec.add_sub_cancel _ _

/-- Each bit of the status word after a push or pop. -/
theorem getLsbD_sstatAfter (v : BitVec 8) (e j : Nat) (empty wraps : Bool) (he : e + 1 < 8) :
    (sstatAfter v e empty wraps).getLsbD j =
      if j = e then empty else if j = e + 1 then v.getLsbD j || wraps else v.getLsbD j := by
  unfold sstatAfter
  simp only [getLsbD_putBit]
  by_cases h1 : j = e + 1
  · subst h1
    simp [he]
  · by_cases h2 : j = e
    · subst h2
      have : j < 8 := by omega
      simp [this]
    · simp [h1, h2]

@[simp] theorem pushPc_pcStk (v : Addr) : (pushPc v s).pcStk = s.pcStk.push v := rfl
@[simp] theorem popPc_pcStk : (popPc s).pcStk = s.pcStk.pop := rfl
@[simp] theorem pushLoop_loopStk (e : Addr) (t : BitVec 4) :
    (pushLoop e t s).loopStk = s.loopStk.push (loopCell e t) := rfl
@[simp] theorem pushLoop_loopEnd (e : Addr) (t : BitVec 4) : (pushLoop e t s).loopEnd = some e := rfl
@[simp] theorem pushLoop_loopTerm (e : Addr) (t : BitVec 4) : (pushLoop e t s).loopTerm = t := rfl
@[simp] theorem popLoop_loopStk : (popLoop s).loopStk = s.loopStk.pop := by
  simp only [popLoop]; split <;> rfl
theorem popLoop_loopEnd : (popLoop s).loopEnd =
    if s.loopStk.sp - 1 = 0 then none else some (cellEnd s.loopStk.pop.top) := by
  by_cases h : s.loopStk.sp - 1 = 0 <;>
    simp only [popLoop, HwStack.pop_sp, h, if_true, if_false] <;> rfl
theorem popLoop_loopTerm : (popLoop s).loopTerm =
    if s.loopStk.sp - 1 = 0 then 0 else cellTerm s.loopStk.pop.top := by
  by_cases h : s.loopStk.sp - 1 = 0 <;>
    simp only [popLoop, HwStack.pop_sp, h, if_true, if_false] <;> rfl
@[simp] theorem pushCntr_cntrStk : (pushCntr s).cntrStk = s.cntrStk.push s.cntr := rfl
@[simp] theorem popCntr_cntrStk : (popCntr s).cntrStk = s.cntrStk.pop := rfl
@[simp] theorem popCntr_cntr : (popCntr s).cntr = s.cntrStk.top := rfl
@[simp] theorem pushSts_stsStk :
    (pushSts s).stsStk = s.stsStk.push { astat := s.astat, mstat := s.mstat, imask := s.imask } := rfl
@[simp] theorem popSts_stsStk : (popSts s).stsStk = s.stsStk.pop := by simp [popSts]
@[simp] theorem popSts_astat : (popSts s).astat = s.stsStk.top.astat := by simp [popSts]
@[simp] theorem popSts_mstat : (popSts s).mstat = s.stsStk.top.mstat := by simp [popSts]
@[simp] theorem popSts_imask : (popSts s).imask = s.stsStk.top.imask := by simp [popSts]

theorem pushPc_sstat (v : Addr) : (pushPc v s).sstat =
    sstatAfter s.sstat pcEmptyBit (s.pcStk.sp + 1 == 0) s.pcStk.pushWraps := rfl
theorem popPc_sstat : (popPc s).sstat =
    sstatAfter s.sstat pcEmptyBit (s.pcStk.sp - 1 == 0) s.pcStk.popWraps := rfl
theorem pushLoop_sstat (e : Addr) (t : BitVec 4) : (pushLoop e t s).sstat =
    sstatAfter s.sstat loopEmptyBit (s.loopStk.sp + 1 == 0) s.loopStk.pushWraps := rfl
theorem popLoop_sstat : (popLoop s).sstat =
    sstatAfter s.sstat loopEmptyBit (s.loopStk.sp - 1 == 0) s.loopStk.popWraps := by
  simp only [popLoop]; split <;> rfl
theorem pushCntr_sstat : (pushCntr s).sstat =
    sstatAfter s.sstat cntrEmptyBit (s.cntrStk.sp + 1 == 0) s.cntrStk.pushWraps := rfl
theorem popCntr_sstat : (popCntr s).sstat =
    sstatAfter s.sstat cntrEmptyBit (s.cntrStk.sp - 1 == 0) s.cntrStk.popWraps := rfl
theorem pushSts_sstat : (pushSts s).sstat =
    sstatAfter s.sstat stsEmptyBit (s.stsStk.sp + 1 == 0) s.stsStk.pushWraps := rfl
theorem popSts_sstat : (popSts s).sstat =
    sstatAfter s.sstat stsEmptyBit (s.stsStk.sp - 1 == 0) s.stsStk.popWraps := by simp [popSts]

/-! ## Interrupts (R304 to R308) -/

/-- The line taken is active and enabled, and no higher line is. -/
theorem takenLine_some {n : Fin 4} (h : takenLine s = some n) :
    lineActive s n = true ∧ s.imask.getLsbD n.val = true ∧
    ∀ m, n < m → lineActive s m = true → s.imask.getLsbD m.val = false := by
  simp only [takenLine, Config.priority, List.find?] at h
  split at h
  · rename_i h3
    cases h
    simp only [Bool.and_eq_true] at h3
    exact ⟨h3.1, h3.2, fun m hm => absurd hm (by omega)⟩
  · rename_i h3
    split at h
    · rename_i h2
      cases h
      simp only [Bool.and_eq_true] at h2
      refine ⟨h2.1, h2.2, fun m hm ha => ?_⟩
      have : m = 3 := by omega
      subst this
      simpa [ha] using h3
    · rename_i h2
      split at h
      · rename_i h1
        cases h
        simp only [Bool.and_eq_true] at h1
        refine ⟨h1.1, h1.2, fun m hm ha => ?_⟩
        have : m = 2 ∨ m = 3 := by omega
        rcases this with rfl | rfl
        · simpa [ha] using h2
        · simpa [ha] using h3
      · rename_i h1
        split at h
        · rename_i h0
          cases h
          simp only [Bool.and_eq_true] at h0
          refine ⟨h0.1, h0.2, fun m hm ha => ?_⟩
          have : m = 1 ∨ m = 2 ∨ m = 3 := by omega
          rcases this with rfl | rfl | rfl
          · simpa [ha] using h1
          · simpa [ha] using h2
          · simpa [ha] using h3
        · cases h

/-- No line is taken exactly when none is active and enabled. -/
theorem takenLine_none : takenLine s = none ↔
    ∀ n : Fin 4, lineActive s n = true → s.imask.getLsbD n.val = false := by
  simp only [takenLine, List.find?_eq_none, Bool.and_eq_true, not_and, Bool.not_eq_true]
  refine ⟨fun h n => h n ?_, fun h n _ => h n⟩
  revert n
  decide

/-- All that an arbitration pass can do. -/
theorem arbitrate_cases : (takenLine s = none ∧ arbitrate s = s) ∨
    ∃ n, takenLine s = some n ∧ arbitrate s = enter n s := by
  unfold arbitrate
  cases h : takenLine s with
  | none => exact .inl ⟨rfl, rfl⟩
  | some n => exact .inr ⟨n, rfl, rfl⟩

/-- With the stacks at their default policy a result answers for itself. -/
@[simp] theorem underStackPolicy_default (r : Result) : underStackPolicy Config.stackPolicy s r = r := rfl

/-- With the stacks at their default policy a host action takes its effect. -/
theorem hostStep_default (h : HostAction) : hostStep h s = .next (hostEffect h s) := rfl

/-- A wrapped bit is set anew exactly when one of the four is set after and was not before. -/
theorem setsWrappedBit_iff (t : State) :
    setsWrappedBit s t = true ↔ ∃ k ∈ [1, 3, 5, 7], s.sstat.getLsbD k = false ∧ t.sstat.getLsbD k = true := by
  rw [setsWrappedBit, bne_iff_ne, ne_eq, BitVec.eq_of_getLsbD_eq_iff, not_forall]
  constructor
  · rintro ⟨k, h⟩
    rw [Classical.not_imp] at h
    obtain ⟨hk, h⟩ := h
    have : k = 0 ∨ k = 1 ∨ k = 2 ∨ k = 3 ∨ k = 4 ∨ k = 5 ∨ k = 6 ∨ k = 7 := by omega
    rcases this with rfl | rfl | rfl | rfl | rfl | rfl | rfl | rfl <;> simp_all [wrappedBits]
  · rintro ⟨k, hk, hs, ht⟩
    have hk : k = 1 ∨ k = 3 ∨ k = 5 ∨ k = 7 := by simpa using hk
    refine ⟨k, fun h => ?_⟩
    rcases hk with rfl | rfl | rfl | rfl <;> simp_all [wrappedBits, -BitVec.getLsbD_eq_getElem]

/-- All that the step can do: the pass leaves the core idle, or an instruction runs. -/
theorem step_cases : ((arbitrate s).idle = true ∧ step s = .next (arbitrate s)) ∨
    ((arbitrate s).idle = false ∧
      step s = exec (decodeWord (fetch (arbitrate s)))
        (loopCheck (afterFetch ((arbitrate s).setPpc (arbitrate s).pc)))) := by
  unfold step
  rw [underStackPolicy_default]
  cases h : (arbitrate s).idle with
  | true => exact .inl ⟨rfl, by simp⟩
  | false => exact .inr ⟨rfl, by simp⟩

/-- All that the loop check can do (step 4 of R71). -/
theorem loopCheck_cases :
    (s.loopEnd ≠ some s.pc ∧ loopCheck s = s.setPc (s.pc + 1)) ∨
    (s.loopEnd = some s.pc ∧ (evalCond (Cond.ofCode s.loopTerm) s).1 = true ∧
      loopCheck s = (evalCond (Cond.ofCode s.loopTerm) s).2.setPc s.pcStk.top) ∨
    (s.loopEnd = some s.pc ∧ (evalCond (Cond.ofCode s.loopTerm) s).1 = false ∧
      loopCheck s = (popPc (popLoop (evalCond (Cond.ofCode s.loopTerm) s).2)).setPc (s.pc + 1)) := by
  by_cases h : s.loopEnd = some s.pc
  · cases hc : (evalCond (Cond.ofCode s.loopTerm) s).1 with
    | true => exact .inr (.inl ⟨h, rfl, by simp [loopCheck, h, hc, topPc]⟩)
    | false => exact .inr (.inr ⟨h, rfl, by simp [loopCheck, h, hc]⟩)
  · exact .inl ⟨h, by simp [loopCheck, h]⟩

/-! ## Memory accesses -/

/-- A read of program memory depends on the memory, where devices are, and how much the host has seen. -/
theorem pmRead_congr {s t : State} (h : s.pm = t.pm) (hd : s.pmDevices = t.pmDevices)
    (he : s.events = t.events) (a : Addr) : pmRead s a = pmRead t a := by
  simp [pmRead, h, hd, he]

theorem dmRead_congr {s t : State} (h : s.dm = t.dm) (hd : s.dmDevices = t.dmDevices)
    (he : s.events = t.events) (a : Addr) : dmRead s a = dmRead t a := by
  simp [dmRead, h, hd, he]

@[simp] theorem pmRead_compute (f : Amf) (z : Bool) (y : Yop) (x : Xop) (a : Addr) :
    pmRead (compute f z y x s) a = pmRead s a := pmRead_congr (by simp) (by simp) (by simp) a
@[simp] theorem dmRead_compute (f : Amf) (z : Bool) (y : Yop) (x : Xop) (a : Addr) :
    dmRead (compute f z y x s) a = dmRead s a := dmRead_congr (by simp) (by simp) (by simp) a
@[simp] theorem pmRead_shiftOp (f : ShiftFn) (x : Xop) (c : Int) (a : Addr) :
    pmRead (shiftOp f x c s) a = pmRead s a := pmRead_congr (by simp) (by simp) (by simp) a
@[simp] theorem dmRead_shiftOp (f : ShiftFn) (x : Xop) (c : Int) (a : Addr) :
    dmRead (shiftOp f x c s) a = dmRead s a := dmRead_congr (by simp) (by simp) (by simp) a

/-- The effective address reads the generator and the reverse mode only. -/
theorem ea_congr {s t : State} {n : Fin 8} (hg : s.gen n = t.gen n) (hm : s.mstat = t.mstat) :
    ea s n = ea t n := by
  simp [ea, hg, hm]

/-! ## Register writes (R210 to R216) -/

/-- All that a write of group 1 or 2 can do. -/
theorem wrDag_cases (upper : Bool) (r : BitVec 4) (v : Word) :
    wrDag upper r v s = writeI (dagGen upper r) v s ∨ wrDag upper r v s = writeM (dagGen upper r) v s ∨
    wrDag upper r v s = writeL (dagGen upper r) v s ∨ wrDag upper r v s = s := by
  unfold wrDag
  dsimp only
  split
  · exact .inl rfl
  · exact .inr (.inl rfl)
  · exact .inr (.inr (.inl rfl))
  · exact .inr (.inr (.inr rfl))

/-- All that a write of group 3 can do. -/
theorem wrCtl_cases (r : BitVec 4) (v : Word) :
    wrCtl r v s = s.setAstat (v.setWidth 8) ∨ wrCtl r v s = s.setMstat (v.setWidth 4) ∨
    wrCtl r v s = s.setImask (v.setWidth 4) ∨ wrCtl r v s = s.setIcntl (v.setWidth 5) ∨
    wrCtl r v s = (pushCntr s).setCntr v ∨ wrCtl r v s = s.setBank { s.bank with sb := extSb v } ∨
    wrCtl r v s = s.setPx (v.setWidth 8) ∨ wrCtl r v s = s := by
  unfold wrCtl
  split <;> simp

end Sys2Proof.Machine
end

