-- ==== Sys2Proof/Laws/PerInstr.lean ====
section
/-! SUPPORT. For each instruction, its encoding lies in its own row of the opcode table
(spec/30_encoding.md R74, R85). -/

namespace Sys2Proof.Laws

/-- The encoded word matches the instruction's row of the opcode table. -/
def TableMatch.Statement (i : Instr) : Prop := encode i &&& tableMask i = tableMatch i

/-! The classes of the table's masks. -/

theorem eq_of_bits {a b : OpWord} (h : ∀ k : Fin 24, a.getLsbD k.val = b.getLsbD k.val) : a = b :=
  BitVec.eq_of_getLsbD_eq fun k hk => h ⟨k, hk⟩

theorem and_top2 (a : BitVec 2) (b : BitVec 22) :
    (cat a b : OpWord) &&& 0xC00000 = cat a 0#22 := by
  refine eq_of_bits fun k => ?_
  fin_cases k <;> simp [-BitVec.getLsbD_eq_getElem]

theorem and_top3 (a : BitVec 3) (b : BitVec 21) :
    (cat a b : OpWord) &&& 0xE00000 = cat a 0#21 := by
  refine eq_of_bits fun k => ?_
  fin_cases k <;> simp [-BitVec.getLsbD_eq_getElem]

theorem and_top4 (a : BitVec 4) (b : BitVec 20) :
    (cat a b : OpWord) &&& 0xF00000 = cat a 0#20 := by
  refine eq_of_bits fun k => ?_
  fin_cases k <;> simp [-BitVec.getLsbD_eq_getElem]

theorem and_top5 (a : BitVec 5) (b : BitVec 19) :
    (cat a b : OpWord) &&& 0xF80000 = cat a 0#19 := by
  refine eq_of_bits fun k => ?_
  fin_cases k <;> simp [-BitVec.getLsbD_eq_getElem]

theorem and_top6 (a : BitVec 6) (b : BitVec 18) :
    (cat a b : OpWord) &&& 0xFC0000 = cat a 0#18 := by
  refine eq_of_bits fun k => ?_
  fin_cases k <;> simp [-BitVec.getLsbD_eq_getElem]

theorem and_top8 (a : BitVec 8) (b : BitVec 16) :
    (cat a b : OpWord) &&& 0xFF0000 = cat a 0#16 := by
  refine eq_of_bits fun k => ?_
  fin_cases k <;> simp [-BitVec.getLsbD_eq_getElem]

theorem and_top9 (a : BitVec 9) (b : BitVec 15) :
    (cat a b : OpWord) &&& 0xFF8000 = cat a 0#15 := by
  refine eq_of_bits fun k => ?_
  fin_cases k <;> simp [-BitVec.getLsbD_eq_getElem]

theorem and_cc (f : Amf) (z : Bool) (y : Yop) (x : Xop) (c : Cond) :
    encodeCc f z y x c &&& 0xFBE000 = cat 0b00100#5 (cat 0#1 (cat f.code 0#13)) := by
  refine eq_of_bits fun k => ?_
  fin_cases k <;> simp [-BitVec.getLsbD_eq_getElem, encodeCc]

theorem and_shc (f : ShiftFn) (x : Xop) (c : Cond) :
    encodeShc f x c &&& 0xFF7800 = cat 0x0E#8 (cat 0#1 (cat f.code 0#11)) := by
  refine eq_of_bits fun k => ?_
  fin_cases k <;> simp [-BitVec.getLsbD_eq_getElem, encodeShc]

theorem and_shi (sf : BitVec 4) (x : Xop) (e : BitVec 8) :
    encodeShi sf x e &&& 0xFF7800 = cat 0x0F#8 (cat 0#1 (cat sf 0#11)) := by
  refine eq_of_bits fun k => ?_
  fin_cases k <;> simp [-BitVec.getLsbD_eq_getElem, encodeShi]

/-! The instructions, in the table's order. -/

theorem TableMatch.nop : TableMatch.Statement (.nop) := (and_top8 _ _).trans rfl
theorem TableMatch.reserved01 : TableMatch.Statement (.reserved01) := (and_top8 _ _).trans rfl
theorem TableMatch.reserved02 : TableMatch.Statement (.reserved02) := rfl
theorem TableMatch.idle : TableMatch.Statement (.idle) := rfl
theorem TableMatch.reserved03 : TableMatch.Statement (.reserved03) := (and_top8 _ _).trans rfl
theorem TableMatch.stk (popPc popLoop popCntr : Bool) (sts : BitVec 2) : TableMatch.Statement (.stk popPc popLoop popCntr sts) :=
  (and_top8 _ _).trans rfl
theorem TableMatch.satMr : TableMatch.Statement (.satMr) := (and_top8 _ _).trans rfl
theorem TableMatch.divs (y : Yop) (x : Xop) : TableMatch.Statement (.divs y x) :=
  (and_top8 _ _).trans rfl
theorem TableMatch.divq (x : Xop) : TableMatch.Statement (.divq x) := (and_top8 _ _).trans rfl
theorem TableMatch.reserved08 : TableMatch.Statement (.reserved08) := (and_top8 _ _).trans rfl
theorem TableMatch.modify (n m : Fin 8) : TableMatch.Statement (.modify n m) :=
  (and_top8 _ _).trans rfl
theorem TableMatch.rts (c : Cond) : TableMatch.Statement (.rts c) := by
  refine eq_of_bits fun k => ?_
  fin_cases k <;> simp [-BitVec.getLsbD_eq_getElem, encode, tableMask, tableMatch]
theorem TableMatch.rti (c : Cond) : TableMatch.Statement (.rti c) := by
  refine eq_of_bits fun k => ?_
  fin_cases k <;> simp [-BitVec.getLsbD_eq_getElem, encode, tableMask, tableMatch]
theorem TableMatch.jumpInd (n : Fin 8) (c : Cond) : TableMatch.Statement (.jumpInd n c) := by
  refine eq_of_bits fun k => ?_
  fin_cases k <;> simp [-BitVec.getLsbD_eq_getElem, encode, tableMask, tableMatch]
theorem TableMatch.callInd (n : Fin 8) (c : Cond) : TableMatch.Statement (.callInd n c) := by
  refine eq_of_bits fun k => ?_
  fin_cases k <;> simp [-BitVec.getLsbD_eq_getElem, encode, tableMask, tableMatch]
theorem TableMatch.mode (arSat avLatch reverse bank : BitVec 2) : TableMatch.Statement (.mode arSat avLatch reverse bank) :=
  (and_top8 _ _).trans rfl
theorem TableMatch.move (dg : RegGroup) (di : BitVec 4) (sg : RegGroup) (si : BitVec 4) : TableMatch.Statement (.move dg di sg si) :=
  (and_top8 _ _).trans rfl
theorem TableMatch.lshiftHi (x : Xop) (c : Cond) : TableMatch.Statement (.lshiftHi x c) :=
  (and_shc _ _ _).trans rfl
theorem TableMatch.lshiftHiOr (x : Xop) (c : Cond) : TableMatch.Statement (.lshiftHiOr x c) :=
  (and_shc _ _ _).trans rfl
theorem TableMatch.lshiftLo (x : Xop) (c : Cond) : TableMatch.Statement (.lshiftLo x c) :=
  (and_shc _ _ _).trans rfl
theorem TableMatch.lshiftLoOr (x : Xop) (c : Cond) : TableMatch.Statement (.lshiftLoOr x c) :=
  (and_shc _ _ _).trans rfl
theorem TableMatch.ashiftHi (x : Xop) (c : Cond) : TableMatch.Statement (.ashiftHi x c) :=
  (and_shc _ _ _).trans rfl
theorem TableMatch.ashiftHiOr (x : Xop) (c : Cond) : TableMatch.Statement (.ashiftHiOr x c) :=
  (and_shc _ _ _).trans rfl
theorem TableMatch.ashiftLo (x : Xop) (c : Cond) : TableMatch.Statement (.ashiftLo x c) :=
  (and_shc _ _ _).trans rfl
theorem TableMatch.ashiftLoOr (x : Xop) (c : Cond) : TableMatch.Statement (.ashiftLoOr x c) :=
  (and_shc _ _ _).trans rfl
theorem TableMatch.normHi (x : Xop) (c : Cond) : TableMatch.Statement (.normHi x c) :=
  (and_shc _ _ _).trans rfl
theorem TableMatch.normHiOr (x : Xop) (c : Cond) : TableMatch.Statement (.normHiOr x c) :=
  (and_shc _ _ _).trans rfl
theorem TableMatch.normLo (x : Xop) (c : Cond) : TableMatch.Statement (.normLo x c) :=
  (and_shc _ _ _).trans rfl
theorem TableMatch.normLoOr (x : Xop) (c : Cond) : TableMatch.Statement (.normLoOr x c) :=
  (and_shc _ _ _).trans rfl
theorem TableMatch.expHi (x : Xop) (c : Cond) : TableMatch.Statement (.expHi x c) :=
  (and_shc _ _ _).trans rfl
theorem TableMatch.expHix (x : Xop) (c : Cond) : TableMatch.Statement (.expHix x c) :=
  (and_shc _ _ _).trans rfl
theorem TableMatch.expLo (x : Xop) (c : Cond) : TableMatch.Statement (.expLo x c) :=
  (and_shc _ _ _).trans rfl
theorem TableMatch.expAdj (x : Xop) (c : Cond) : TableMatch.Statement (.expAdj x c) :=
  (and_shc _ _ _).trans rfl
theorem TableMatch.lshiftHiBy (x : Xop) (e : BitVec 8) : TableMatch.Statement (.lshiftHiBy x e) :=
  (and_shi _ _ _).trans rfl
theorem TableMatch.lshiftHiOrBy (x : Xop) (e : BitVec 8) : TableMatch.Statement (.lshiftHiOrBy x e) :=
  (and_shi _ _ _).trans rfl
theorem TableMatch.lshiftLoBy (x : Xop) (e : BitVec 8) : TableMatch.Statement (.lshiftLoBy x e) :=
  (and_shi _ _ _).trans rfl
theorem TableMatch.lshiftLoOrBy (x : Xop) (e : BitVec 8) : TableMatch.Statement (.lshiftLoOrBy x e) :=
  (and_shi _ _ _).trans rfl
theorem TableMatch.ashiftHiBy (x : Xop) (e : BitVec 8) : TableMatch.Statement (.ashiftHiBy x e) :=
  (and_shi _ _ _).trans rfl
theorem TableMatch.ashiftHiOrBy (x : Xop) (e : BitVec 8) : TableMatch.Statement (.ashiftHiOrBy x e) :=
  (and_shi _ _ _).trans rfl
theorem TableMatch.ashiftLoBy (x : Xop) (e : BitVec 8) : TableMatch.Statement (.ashiftLoBy x e) :=
  (and_shi _ _ _).trans rfl
theorem TableMatch.ashiftLoOrBy (x : Xop) (e : BitVec 8) : TableMatch.Statement (.ashiftLoOrBy x e) :=
  (and_shi _ _ _).trans rfl
theorem TableMatch.reservedShi (sf : BitVec 3) (x : Xop) (e : BitVec 8) : TableMatch.Statement (.reservedShi sf x e) := by
  refine eq_of_bits fun k => ?_
  fin_cases k <;> simp [-BitVec.getLsbD_eq_getElem, encode, encodeShi, tableMask, tableMatch]
theorem TableMatch.shiftMove (f : ShiftFn) (x : Xop) (d s : Dreg) : TableMatch.Statement (.shiftMove f x d s) := by
  refine eq_of_bits fun k => ?_
  fin_cases k <;> simp [-BitVec.getLsbD_eq_getElem, encode, encodeShift, tableMask, tableMatch]
theorem TableMatch.shiftPmRead (f : ShiftFn) (x : Xop) (d : Dreg) (n m : Fin 8) : TableMatch.Statement (.shiftPmRead f x d n m) :=
  (and_top9 _ _).trans rfl
theorem TableMatch.shiftPmWrite (f : ShiftFn) (x : Xop) (d : Dreg) (n m : Fin 8) : TableMatch.Statement (.shiftPmWrite f x d n m) :=
  (and_top9 _ _).trans rfl
theorem TableMatch.shiftDmRead (f : ShiftFn) (x : Xop) (d : Dreg) (n m : Fin 8) : TableMatch.Statement (.shiftDmRead f x d n m) := by
  refine eq_of_bits fun k => ?_
  fin_cases k <;> simp [-BitVec.getLsbD_eq_getElem, encode, encodeShift, tableMask, tableMatch]
theorem TableMatch.shiftDmWrite (f : ShiftFn) (x : Xop) (d : Dreg) (n m : Fin 8) : TableMatch.Statement (.shiftDmWrite f x d n m) := by
  refine eq_of_bits fun k => ?_
  fin_cases k <;> simp [-BitVec.getLsbD_eq_getElem, encode, encodeShift, tableMask, tableMatch]
theorem TableMatch.doUntil (a : Addr) (t : BitVec 4) : TableMatch.Statement (.doUntil a t) :=
  (and_top6 _ _).trans rfl
theorem TableMatch.jump (a : Addr) (c : Cond) : TableMatch.Statement (.jump a c) :=
  (and_top6 _ _).trans rfl
theorem TableMatch.call (a : Addr) (c : Cond) : TableMatch.Statement (.call a c) :=
  (and_top6 _ _).trans rfl
theorem TableMatch.ccNop (z : Bool) (y : Yop) (x : Xop) (c : Cond) : TableMatch.Statement (.ccNop z y x c) :=
  (and_cc _ _ _ _ _).trans rfl
theorem TableMatch.ccMulRnd (z : Bool) (y : Yop) (x : Xop) (c : Cond) : TableMatch.Statement (.ccMulRnd z y x c) :=
  (and_cc _ _ _ _ _).trans rfl
theorem TableMatch.ccAddRnd (z : Bool) (y : Yop) (x : Xop) (c : Cond) : TableMatch.Statement (.ccAddRnd z y x c) :=
  (and_cc _ _ _ _ _).trans rfl
theorem TableMatch.ccSubRnd (z : Bool) (y : Yop) (x : Xop) (c : Cond) : TableMatch.Statement (.ccSubRnd z y x c) :=
  (and_cc _ _ _ _ _).trans rfl
theorem TableMatch.ccMulSS (z : Bool) (y : Yop) (x : Xop) (c : Cond) : TableMatch.Statement (.ccMulSS z y x c) :=
  (and_cc _ _ _ _ _).trans rfl
theorem TableMatch.ccMulSU (z : Bool) (y : Yop) (x : Xop) (c : Cond) : TableMatch.Statement (.ccMulSU z y x c) :=
  (and_cc _ _ _ _ _).trans rfl
theorem TableMatch.ccMulUS (z : Bool) (y : Yop) (x : Xop) (c : Cond) : TableMatch.Statement (.ccMulUS z y x c) :=
  (and_cc _ _ _ _ _).trans rfl
theorem TableMatch.ccMulUU (z : Bool) (y : Yop) (x : Xop) (c : Cond) : TableMatch.Statement (.ccMulUU z y x c) :=
  (and_cc _ _ _ _ _).trans rfl
theorem TableMatch.ccAddSS (z : Bool) (y : Yop) (x : Xop) (c : Cond) : TableMatch.Statement (.ccAddSS z y x c) :=
  (and_cc _ _ _ _ _).trans rfl
theorem TableMatch.ccAddSU (z : Bool) (y : Yop) (x : Xop) (c : Cond) : TableMatch.Statement (.ccAddSU z y x c) :=
  (and_cc _ _ _ _ _).trans rfl
theorem TableMatch.ccAddUS (z : Bool) (y : Yop) (x : Xop) (c : Cond) : TableMatch.Statement (.ccAddUS z y x c) :=
  (and_cc _ _ _ _ _).trans rfl
theorem TableMatch.ccAddUU (z : Bool) (y : Yop) (x : Xop) (c : Cond) : TableMatch.Statement (.ccAddUU z y x c) :=
  (and_cc _ _ _ _ _).trans rfl
theorem TableMatch.ccSubSS (z : Bool) (y : Yop) (x : Xop) (c : Cond) : TableMatch.Statement (.ccSubSS z y x c) :=
  (and_cc _ _ _ _ _).trans rfl
theorem TableMatch.ccSubSU (z : Bool) (y : Yop) (x : Xop) (c : Cond) : TableMatch.Statement (.ccSubSU z y x c) :=
  (and_cc _ _ _ _ _).trans rfl
theorem TableMatch.ccSubUS (z : Bool) (y : Yop) (x : Xop) (c : Cond) : TableMatch.Statement (.ccSubUS z y x c) :=
  (and_cc _ _ _ _ _).trans rfl
theorem TableMatch.ccSubUU (z : Bool) (y : Yop) (x : Xop) (c : Cond) : TableMatch.Statement (.ccSubUU z y x c) :=
  (and_cc _ _ _ _ _).trans rfl
theorem TableMatch.ccPassY (z : Bool) (y : Yop) (x : Xop) (c : Cond) : TableMatch.Statement (.ccPassY z y x c) :=
  (and_cc _ _ _ _ _).trans rfl
theorem TableMatch.ccIncY (z : Bool) (y : Yop) (x : Xop) (c : Cond) : TableMatch.Statement (.ccIncY z y x c) :=
  (and_cc _ _ _ _ _).trans rfl
theorem TableMatch.ccAddC (z : Bool) (y : Yop) (x : Xop) (c : Cond) : TableMatch.Statement (.ccAddC z y x c) :=
  (and_cc _ _ _ _ _).trans rfl
theorem TableMatch.ccAdd (z : Bool) (y : Yop) (x : Xop) (c : Cond) : TableMatch.Statement (.ccAdd z y x c) :=
  (and_cc _ _ _ _ _).trans rfl
theorem TableMatch.ccNotY (z : Bool) (y : Yop) (x : Xop) (c : Cond) : TableMatch.Statement (.ccNotY z y x c) :=
  (and_cc _ _ _ _ _).trans rfl
theorem TableMatch.ccNegY (z : Bool) (y : Yop) (x : Xop) (c : Cond) : TableMatch.Statement (.ccNegY z y x c) :=
  (and_cc _ _ _ _ _).trans rfl
theorem TableMatch.ccSubC (z : Bool) (y : Yop) (x : Xop) (c : Cond) : TableMatch.Statement (.ccSubC z y x c) :=
  (and_cc _ _ _ _ _).trans rfl
theorem TableMatch.ccSub (z : Bool) (y : Yop) (x : Xop) (c : Cond) : TableMatch.Statement (.ccSub z y x c) :=
  (and_cc _ _ _ _ _).trans rfl
theorem TableMatch.ccDecY (z : Bool) (y : Yop) (x : Xop) (c : Cond) : TableMatch.Statement (.ccDecY z y x c) :=
  (and_cc _ _ _ _ _).trans rfl
theorem TableMatch.ccRsub (z : Bool) (y : Yop) (x : Xop) (c : Cond) : TableMatch.Statement (.ccRsub z y x c) :=
  (and_cc _ _ _ _ _).trans rfl
theorem TableMatch.ccRsubC (z : Bool) (y : Yop) (x : Xop) (c : Cond) : TableMatch.Statement (.ccRsubC z y x c) :=
  (and_cc _ _ _ _ _).trans rfl
theorem TableMatch.ccNotX (z : Bool) (y : Yop) (x : Xop) (c : Cond) : TableMatch.Statement (.ccNotX z y x c) :=
  (and_cc _ _ _ _ _).trans rfl
theorem TableMatch.ccAndXY (z : Bool) (y : Yop) (x : Xop) (c : Cond) : TableMatch.Statement (.ccAndXY z y x c) :=
  (and_cc _ _ _ _ _).trans rfl
theorem TableMatch.ccOrXY (z : Bool) (y : Yop) (x : Xop) (c : Cond) : TableMatch.Statement (.ccOrXY z y x c) :=
  (and_cc _ _ _ _ _).trans rfl
theorem TableMatch.ccXorXY (z : Bool) (y : Yop) (x : Xop) (c : Cond) : TableMatch.Statement (.ccXorXY z y x c) :=
  (and_cc _ _ _ _ _).trans rfl
theorem TableMatch.ccAbsX (z : Bool) (y : Yop) (x : Xop) (c : Cond) : TableMatch.Statement (.ccAbsX z y x c) :=
  (and_cc _ _ _ _ _).trans rfl
theorem TableMatch.computeMove (f : Amf) (z : Bool) (y : Yop) (x : Xop) (d s : Dreg) : TableMatch.Statement (.computeMove f z y x d s) :=
  (and_top5 _ _).trans rfl
theorem TableMatch.loadImm14 (g : RegGroup) (v : BitVec 14) (r : BitVec 4) : TableMatch.Statement (.loadImm14 g v r) :=
  (and_top4 _ _).trans rfl
theorem TableMatch.loadImm16 (v : Word) (d : Dreg) : TableMatch.Statement (.loadImm16 v d) :=
  (and_top4 _ _).trans rfl
theorem TableMatch.computePmRead (f : Amf) (z : Bool) (y : Yop) (x : Xop) (d : Dreg) (n m : Fin 8) : TableMatch.Statement (.computePmRead f z y x d n m) :=
  (and_top5 _ _).trans rfl
theorem TableMatch.computePmWrite (f : Amf) (z : Bool) (y : Yop) (x : Xop) (d : Dreg) (n m : Fin 8) : TableMatch.Statement (.computePmWrite f z y x d n m) :=
  (and_top5 _ _).trans rfl
theorem TableMatch.computeDmRead (f : Amf) (z : Bool) (y : Yop) (x : Xop) (d : Dreg) (n m : Fin 8) : TableMatch.Statement (.computeDmRead f z y x d n m) := by
  refine eq_of_bits fun k => ?_
  fin_cases k <;> simp [-BitVec.getLsbD_eq_getElem, encode, encodeCompute, tableMask, tableMatch]
theorem TableMatch.computeDmWrite (f : Amf) (z : Bool) (y : Yop) (x : Xop) (d : Dreg) (n m : Fin 8) : TableMatch.Statement (.computeDmWrite f z y x d n m) := by
  refine eq_of_bits fun k => ?_
  fin_cases k <;> simp [-BitVec.getLsbD_eq_getElem, encode, encodeCompute, tableMask, tableMatch]
theorem TableMatch.loadDirect (g : RegGroup) (a : Addr) (r : BitVec 4) : TableMatch.Statement (.loadDirect g a r) :=
  (and_top4 _ _).trans rfl
theorem TableMatch.storeDirect (g : RegGroup) (a : Addr) (r : BitVec 4) : TableMatch.Statement (.storeDirect g a r) :=
  (and_top4 _ _).trans rfl
theorem TableMatch.storeImm (v : Word) (n m : Fin 8) : TableMatch.Statement (.storeImm v n m) :=
  (and_top3 _ _).trans rfl
theorem TableMatch.computeDual (f : Amf) (y : Yop) (x : Xop) (dx : DualX) (dn dm : Fin 8) (dy : DualY) (pn pm : Fin 8) : TableMatch.Statement (.computeDual f y x dx dn dm dy pn pm) :=
  (and_top2 _ _).trans rfl

end Sys2Proof.Laws
end

