-- ==== Sys2Proof/Laws/Snoop.lean ====
section
/-! SUPPORT. The ids of the register snoop: the map from names to integers is one-to-one (R352, decision
D31), and the integers read back to their names. -/

namespace Sys2Proof.Config

theorem mem_snoopNames (id : SnoopId) (h : id ≠ .outOfRange) : id ∈ snoopNames := by
  cases id
  case outOfRange => exact absurd rfl h
  all_goals simp [snoopNames, plainSnoopNames, numberedSnoopNames]

/-- The integer of a name stands for that name. -/
theorem snoopId_snoopInt (id : SnoopId) (h : id ≠ .outOfRange) : snoopId (snoopInt id) = id := by
  have hi := List.idxOf_lt_length_of_mem (mem_snoopNames id h)
  have hp : snoopPerm.symm (snoopInt id) = .ofNat (snoopNames.idxOf id) := snoopPerm.symm_apply_apply _
  simp [snoopId, hp, List.getElem?_eq_getElem hi]

/-- Two names never share an integer. -/
theorem snoopInt_injective {a b : SnoopId} (ha : a ≠ .outOfRange) (hb : b ≠ .outOfRange)
    (h : snoopInt a = snoopInt b) : a = b := by
  rw [← snoopId_snoopInt a ha, h, snoopId_snoopInt b hb]

end Sys2Proof.Config

namespace Sys2Proof.Machine

/-- What the snoop writes at a depth of a stack it reads back there. -/
theorem HwStack.atDepth_putDepth {α : Type} {k : Nat} (st : HwStack α k) (d : Nat) (v : α) :
    (st.putDepth d v).atDepth d = v := by
  simp [HwStack.atDepth, HwStack.putDepth]

end Sys2Proof.Machine
end

