-- ==== Sys2Proof/Tests/Slice0.lean ====
section
/-! SUPPORT. Tests: the checks of WellFormed on ill-formed terms, the decoding of every constructor from
words written out from the encodings of spec/30_encoding.md, one step or one instruction on small
states with the results of spec/95_test_vectors.md, and for each statement with hypotheses a witness that
meets them. -/

namespace Sys2Proof.Tests

open Sys2Proof.Machine Sys2Proof.Claims

/-! ## WellFormed: one term that each check refuses -/

theorem test_wf_modify_crosses_groups : (Instr.modify 3 4).wellFormed = false := by decide
theorem test_wf_jump_index_in_dag1 : (Instr.jumpInd 3 .always).wellFormed = false := by decide
theorem test_wf_call_index_in_dag1 : (Instr.callInd 0 .always).wellFormed = false := by decide
theorem test_wf_shift_pm_read_in_dag1 : (Instr.shiftPmRead .lshiftHi .x0 .ax0 3 4).wellFormed = false := by
  decide
theorem test_wf_shift_pm_write_modify_in_dag1 :
    (Instr.shiftPmWrite .lshiftHi .x0 .ax0 4 3).wellFormed = false := by decide
theorem test_wf_shift_dm_read_crosses : (Instr.shiftDmRead .lshiftHi .x0 .ax0 0 7).wellFormed = false := by
  decide
theorem test_wf_shift_dm_write_crosses : (Instr.shiftDmWrite .lshiftHi .x0 .ax0 7 0).wellFormed = false := by
  decide
theorem test_wf_compute_pm_read_in_dag1 :
    (Instr.computePmRead (.alu .add) false .y0 .x0 .ax0 0 0).wellFormed = false := by decide
theorem test_wf_compute_pm_write_modify_in_dag1 :
    (Instr.computePmWrite (.alu .add) false .y0 .x0 .ax0 4 0).wellFormed = false := by decide
theorem test_wf_compute_dm_read_crosses :
    (Instr.computeDmRead (.alu .add) false .y0 .x0 .ax0 3 4).wellFormed = false := by decide
theorem test_wf_compute_dm_write_crosses :
    (Instr.computeDmWrite (.alu .add) false .y0 .x0 .ax0 4 3).wellFormed = false := by decide
theorem test_wf_store_imm_crosses : (Instr.storeImm 0 4 0).wellFormed = false := by decide
theorem test_wf_dual_data_in_dag2 :
    (Instr.computeDual (.alu .add) .y0 .x0 .ax0 4 0 .ay0 4 4).wellFormed = false ∧
    (Instr.computeDual (.alu .add) .y0 .x0 .ax0 0 4 .ay0 4 4).wellFormed = false := by decide
theorem test_wf_dual_program_in_dag1 :
    (Instr.computeDual (.alu .add) .y0 .x0 .ax0 0 0 .ay0 3 4).wellFormed = false ∧
    (Instr.computeDual (.alu .add) .y0 .x0 .ax0 0 0 .ay0 4 3).wellFormed = false := by decide

/-! ## Decoding -/

/-- Words of NOP and the reserved codes (R74, R87), bit by bit; ignored bits are not all 0. -/
theorem test_decode_reserved :
    decodeWord 0b00000000_1111111111111111 = .nop ∧
    decodeWord 0b00000001_1111111111111111 = .reserved01 ∧
    decodeWord 0b00000010_0_111111111111111 = .reserved02 ∧
    decodeWord 0b00000011_1111111111111111 = .reserved03 ∧
    decodeWord 0b00001000_1111111111111111 = .reserved08 ∧
    decodeWord 0b00001111_1_1_101_110_10000001 = .reservedShi 5 .sr0 0x81 := by decide

/-- Words of program control (R74, R84), bit by bit; ignored bits are not all 0. -/
theorem test_decode_control :
    decodeWord 0b00000010_1_111111111111111 = .idle ∧
    decodeWord 0b00000100_11111111_111_1_0_1_10 = .stk true false true 2 ∧
    decodeWord 0b00000100_00000000_000_0_1_0_11 = .stk false true false 3 ∧
    decodeWord 0b00001010_00000000_000_0_0110 = .rts .av ∧
    decodeWord 0b00001010_11111111_111_1_1001 = .rti .notAc ∧
    decodeWord 0b00001011_00000000_10_0_0_1111 = .jumpInd 6 .always ∧
    decodeWord 0b00001011_11111111_01_1_1_0010 = .callInd 5 .gt ∧
    decodeWord 0b00001100_1111_11_10_01_00_1111 = .mode 3 2 1 0 ∧
    decodeWord 0b000101_00000011111110_1110 = .doUntil 0x00FE 14 ∧
    decodeWord 0b00011_0_11000000000001_1110 = .jump 0x3001 .notCe ∧
    decodeWord 0b00011_1_00000001000000_1000 = .call 0x0040 .ac := by decide

/-- Words of SAT MR, DIVS and DIVQ (R74), bit by bit; ignored bits are not all 0. -/
theorem test_decode_alu0 :
    decodeWord 0b00000101_10101010_01010101 = .satMr ∧
    decodeWord 0b00000110_111_01_101_11110000 = .divs .y1 .mr2 ∧
    decodeWord 0b00000111_11111_110_00001111 = .divq .sr0 := by decide

/-- Words of moves and loads (R74, R78, R79), bit by bit; ignored bits are not all 0. -/
theorem test_decode_moves :
    decodeWord 0b00001001_11111111_111_1_10_01 = .modify 6 5 ∧
    decodeWord 0b00001001_00000000_000_0_11_10 = .modify 3 2 ∧
    decodeWord 0b00001101_1111_11_01_0101_1011 = .move .ctl 5 .dag1 11 ∧
    decodeWord 0b0011_10_11111111111110_0101 = .loadImm14 .dag2 0x3FFE 5 ∧
    decodeWord 0b0100_1011111011101111_1011 = .loadImm16 0xBEEF .mr0 ∧
    decodeWord 0b100_0_01_00000000010000_0010 = .loadDirect .dag1 0x0010 2 ∧
    decodeWord 0b100_1_11_10000000010001_0111 = .storeDirect .ctl 0x2011 7 ∧
    decodeWord 0b101_0_1011111011101111_01_10 = .storeImm 0xBEEF 1 2 ∧
    decodeWord 0b101_1_0000000000000001_11_00 = .storeImm 0x0001 7 4 := by decide

/-- Words of conditional shifts (R74, R83), bit by bit; ignored bits are not all 0. -/
theorem test_decode_shifter :
    decodeWord 0b00001110_1_0000_000_1111_0011 = .lshiftHi .x0 .le ∧
    decodeWord 0b00001110_1_0001_001_1111_0100 = .lshiftHiOr .x1 .lt ∧
    decodeWord 0b00001110_1_0010_010_1111_0101 = .lshiftLo .ar .ge ∧
    decodeWord 0b00001110_1_0011_011_1111_0110 = .lshiftLoOr .mr0 .av ∧
    decodeWord 0b00001110_1_0100_100_1111_0111 = .ashiftHi .mr1 .notAv ∧
    decodeWord 0b00001110_1_0101_101_1111_1000 = .ashiftHiOr .mr2 .ac ∧
    decodeWord 0b00001110_1_0110_110_1111_1001 = .ashiftLo .sr0 .notAc ∧
    decodeWord 0b00001110_1_0111_111_1111_1010 = .ashiftLoOr .sr1 .neg ∧
    decodeWord 0b00001110_1_1000_000_1111_1011 = .normHi .x0 .pos ∧
    decodeWord 0b00001110_1_1001_001_1111_1100 = .normHiOr .x1 .mv ∧
    decodeWord 0b00001110_1_1010_010_1111_1101 = .normLo .ar .notMv ∧
    decodeWord 0b00001110_1_1011_011_1111_1110 = .normLoOr .mr0 .notCe ∧
    decodeWord 0b00001110_1_1100_100_1111_1111 = .expHi .mr1 .always ∧
    decodeWord 0b00001110_1_1101_101_1111_0000 = .expHix .mr2 .eq ∧
    decodeWord 0b00001110_1_1110_110_1111_0001 = .expLo .sr0 .ne ∧
    decodeWord 0b00001110_1_1111_111_1111_0010 = .expAdj .sr1 .gt := by decide

/-- Words of immediate shifts and shifts with a move (R74, R83), bit by bit; ignored bits are not all 0. -/
theorem test_decode_shiftby :
    decodeWord 0b00001111_0_0000_111_00000101 = .lshiftHiBy .sr1 5 ∧
    decodeWord 0b00001111_1_0001_110_11110100 = .lshiftHiOrBy .sr0 244 ∧
    decodeWord 0b00001111_0_0010_101_00000111 = .lshiftLoBy .mr2 7 ∧
    decodeWord 0b00001111_1_0011_100_11110110 = .lshiftLoOrBy .mr1 246 ∧
    decodeWord 0b00001111_0_0100_011_00001001 = .ashiftHiBy .mr0 9 ∧
    decodeWord 0b00001111_1_0101_010_11111000 = .ashiftHiOrBy .ar 248 ∧
    decodeWord 0b00001111_0_0110_001_00001011 = .ashiftLoBy .x1 11 ∧
    decodeWord 0b00001111_1_0111_000_11111010 = .ashiftLoOrBy .x0 250 ∧
    decodeWord 0b00010000_1_0110_111_0100_1011 = .shiftMove .ashiftLo .sr1 .ay0 .mr0 ∧
    decodeWord 0b00010001_0_1111_010_1110_10_01 = .shiftPmRead .expAdj .ar .sr0 6 5 ∧
    decodeWord 0b00010001_1_0001_010_1001_00_11 = .shiftPmWrite .lshiftHiOr .ar .se 4 7 ∧
    decodeWord 0b0001001_1_0_1001_000_0001_11_10 = .shiftDmRead .normHiOr .x0 .ax1 7 6 ∧
    decodeWord 0b0001001_0_1_0011_000_1111_01_10 = .shiftDmWrite .lshiftLoOr .x0 .sr1 1 2 := by decide

/-- Words of MAC functions (R74, R81), bit by bit; ignored bits are not all 0. -/
theorem test_decode_mac :
    decodeWord 0b00100_0_00000_00_101_1111_0000 = .ccNop false .y0 .mr2 .eq ∧
    decodeWord 0b00100_1_00001_00_110_1111_0011 = .ccMulRnd true .y0 .sr0 .le ∧
    decodeWord 0b00100_0_00010_01_111_1111_0110 = .ccAddRnd false .y1 .sr1 .av ∧
    decodeWord 0b00100_1_00011_01_000_1111_1001 = .ccSubRnd true .y1 .x0 .notAc ∧
    decodeWord 0b00100_0_00100_10_001_1111_1100 = .ccMulSS false .f .x1 .mv ∧
    decodeWord 0b00100_1_00101_10_010_1111_1111 = .ccMulSU true .f .ar .always ∧
    decodeWord 0b00100_0_00110_11_011_1111_0010 = .ccMulUS false .zero .mr0 .gt ∧
    decodeWord 0b00100_1_00111_11_100_1111_0101 = .ccMulUU true .zero .mr1 .ge ∧
    decodeWord 0b00100_0_01000_00_101_1111_1000 = .ccAddSS false .y0 .mr2 .ac ∧
    decodeWord 0b00100_1_01001_00_110_1111_1011 = .ccAddSU true .y0 .sr0 .pos ∧
    decodeWord 0b00100_0_01010_01_111_1111_1110 = .ccAddUS false .y1 .sr1 .notCe ∧
    decodeWord 0b00100_1_01011_01_000_1111_0001 = .ccAddUU true .y1 .x0 .ne ∧
    decodeWord 0b00100_0_01100_10_001_1111_0100 = .ccSubSS false .f .x1 .lt ∧
    decodeWord 0b00100_1_01101_10_010_1111_0111 = .ccSubSU true .f .ar .notAv ∧
    decodeWord 0b00100_0_01110_11_011_1111_1010 = .ccSubUS false .zero .mr0 .neg ∧
    decodeWord 0b00100_1_01111_11_100_1111_1101 = .ccSubUU true .zero .mr1 .notMv := by decide

/-- Words of ALU functions (R74, R82), bit by bit; ignored bits are not all 0. -/
theorem test_decode_alu :
    decodeWord 0b00100_0_10000_00_101_1111_0000 = .ccPassY false .y0 .mr2 .eq ∧
    decodeWord 0b00100_1_10001_00_110_1111_0011 = .ccIncY true .y0 .sr0 .le ∧
    decodeWord 0b00100_0_10010_01_111_1111_0110 = .ccAddC false .y1 .sr1 .av ∧
    decodeWord 0b00100_1_10011_01_000_1111_1001 = .ccAdd true .y1 .x0 .notAc ∧
    decodeWord 0b00100_0_10100_10_001_1111_1100 = .ccNotY false .f .x1 .mv ∧
    decodeWord 0b00100_1_10101_10_010_1111_1111 = .ccNegY true .f .ar .always ∧
    decodeWord 0b00100_0_10110_11_011_1111_0010 = .ccSubC false .zero .mr0 .gt ∧
    decodeWord 0b00100_1_10111_11_100_1111_0101 = .ccSub true .zero .mr1 .ge ∧
    decodeWord 0b00100_0_11000_00_101_1111_1000 = .ccDecY false .y0 .mr2 .ac ∧
    decodeWord 0b00100_1_11001_00_110_1111_1011 = .ccRsub true .y0 .sr0 .pos ∧
    decodeWord 0b00100_0_11010_01_111_1111_1110 = .ccRsubC false .y1 .sr1 .notCe ∧
    decodeWord 0b00100_1_11011_01_000_1111_0001 = .ccNotX true .y1 .x0 .ne ∧
    decodeWord 0b00100_0_11100_10_001_1111_0100 = .ccAndXY false .f .x1 .lt ∧
    decodeWord 0b00100_1_11101_10_010_1111_0111 = .ccOrXY true .f .ar .notAv ∧
    decodeWord 0b00100_0_11110_11_011_1111_1010 = .ccXorXY false .zero .mr0 .neg ∧
    decodeWord 0b00100_1_11111_11_100_1111_1101 = .ccAbsX true .zero .mr1 .notMv := by decide

/-- Words of multifunction forms (R74, R81, R82), bit by bit; ignored bits are not all 0. -/
theorem test_decode_multi :
    decodeWord 0b00101_1_10111_10_110_0101_1010 = .computeMove (.alu .sub) true .f .sr0 .ay1 .ar ∧
    decodeWord 0b0101_0_0_01101_01_011_1101_01_10 = .computePmRead (.mac .subSU) false .y1 .mr0 .mr2 5 6 ∧
    decodeWord 0b0101_1_1_11111_00_100_0010_11_00 = .computePmWrite (.alu .absX) true .y0 .mr1 .mx0 7 4 ∧
    decodeWord 0b011_0_0_0_00001_11_001_0110_10_11 = .computeDmRead (.mac .mulRnd) false .zero .x1 .my0 2 3 ∧
    decodeWord 0b011_1_1_1_10000_10_000_1111_00_01 = .computeDmWrite (.alu .passY) true .f .x0 .sr1 4 5 ∧
    decodeWord 0b11_01_01_10111_01_001_01_10_10_01 = .computeDual (.alu .sub) .y1 .x1 .ax1 2 1 .ay1 5 6 := by decide

/-! ## One instruction on a small state, with the results of spec/95_test_vectors.md -/

/-- The state a result holds; the tests' instructions always answer one. -/
def stateOf : Result → State
  | .next s => s
  | _ => State.reset

/-- The reset state with the bank, the flags byte and `MSTAT` given. -/
def small (b : Bank) (astat : BitVec 8 := 0) (mstat : BitVec 4 := 0) : State :=
  { State.reset with bank0 := b, bank1 := b, astat := astat, mstat := mstat }

/-- The state after the instruction of word `w`. -/
def after (w : OpWord) (s : State) : State := stateOf (exec (decodeWord w) s)

/-- `AR` and the flags byte after an ALU word with `AX0`, `AY0`. -/
def alu (w : OpWord) (x y : Word) (astat : BitVec 8 := 0) (mstat : BitVec 4 := 0) : Word × BitVec 8 :=
  let t := after w (small { Bank.reset with ax0 := x, ay0 := y } astat mstat)
  (t.bank.ar, t.astat)

/-- `MR` and the flags byte after a MAC word with `MX0`, `MY0`, `MR`. -/
def mac (w : OpWord) (x y : Word) (mr : BitVec 40) : BitVec 40 × BitVec 8 :=
  let t := after w (small { Bank.reset with mx0 := x, my0 := y, mr := mr })
  (t.bank.mr, t.astat)

/-- `SR` after a shift word with `SI`, `SR`. -/
def shift (w : OpWord) (x : Word) (sr : BitVec 32) : BitVec 32 :=
  (after w (small { Bank.reset with si := x, sr := sr })).bank.sr

/-- V-ALU-1 to V-ALU-4: the flags are those of the unsaturated sum. -/
theorem test_alu_add : alu 0x22600F 0x7FFF 0x0001 = (0x8000, 0x06) ∧
    alu 0x22600F 0x7FFF 0x0001 0 8 = (0x7FFF, 0x06) ∧ alu 0x22600F 0x8000 0xFFFF 0 8 = (0x8000, 0x0C) ∧
    alu 0x22600F 0xFFFF 0x0001 = (0x0000, 0x09) := by decide

/-- V-ALU-5, V-ALU-6 to V-ALU-8, V-ALU-9: carry in, and carry as no borrow. -/
theorem test_alu_carry : alu 0x22400F 0xFFFF 0x0000 0x08 = (0x0000, 0x09) ∧
    alu 0x22E00F 5 5 = (0x0000, 0x09) ∧ alu 0x22E00F 0 1 = (0xFFFF, 0x02) ∧
    alu 0x22E00F 0x8000 1 = (0x7FFF, 0x0C) ∧ alu 0x22C00F 5 3 = (0x0001, 0x08) := by decide

/-- V-ALU-10 to V-ALU-14: the reversed subtractions and the functions of Y alone. -/
theorem test_alu_reversed : alu 0x23200F 3 5 = (0x0002, 0x08) ∧ alu 0x23400F 3 5 = (0x0001, 0x08) ∧
    alu 0x22200F 0 0x7FFF = (0x8000, 0x06) ∧ alu 0x23000F 0 0x8000 = (0x7FFF, 0x0C) ∧
    alu 0x22A00F 0 0x8000 = (0x8000, 0x06) := by decide

/-- V-ALU-16, V-ALU-17: the absolute value and `AS`. -/
theorem test_alu_abs : alu 0x23E00F 0x8000 0 = (0x8000, 0x16) ∧ alu 0x23E00F 0xFFFB 0 = (0x0005, 0x10) := by
  decide

/-- V-ALU-18 to V-ALU-24: the logic functions. -/
theorem test_alu_logic : alu 0x23800F 0xF0F0 0x3C3C 0x0C = (0x3030, 0x00) ∧
    alu 0x23C00F 0xAAAA 0xAAAA = (0x0000, 0x01) ∧ alu 0x22000F 0 0x8001 = (0x8001, 0x02) ∧
    alu 0x22800F 0 0x00FF = (0xFF00, 0x02) ∧ alu 0x23600F 0xFFFF 0 = (0x0000, 0x01) ∧
    alu 0x23A00F 0x00F0 0x0F00 = (0x0FF0, 0x00) := by decide

/-- V-ALU-25, V-ALU-26: `AV` stays set under `AV_LATCH`. -/
theorem test_alu_sticky : alu 0x22600F 1 1 0x04 4 = (0x0002, 0x04) ∧
    alu 0x22000F 0 1 0x04 4 = (0x0001, 0x04) := by decide

/-- V-ALU-20, first steps of 100 / 10: `AF`, `AY0` after `DIVS`, and after the first `DIVQ`. -/
theorem test_divide :
    (let t := after 0x061000 (small { Bank.reset with ay0 := 0x64, ax0 := 0xA })
     (t.bank.af, t.bank.ay0) = (0x0000, 0x00C8)) ∧
    (let t := after 0x070000 (small { Bank.reset with ay0 := 0xC8, ax0 := 0xA })
     (t.bank.af, t.bank.ay0) = (0xFFEC, 0x0190)) := by decide

/-- V-MAC-2 to V-MAC-7: the four formats of the product. -/
theorem test_mac_product : mac 0x20800F 0x8000 0x8000 0 = (0x0080000000, 0x40) ∧
    mac 0x20A00F 0x8000 0xFFFF 0 = (0xFF00010000, 0x40) ∧ mac 0x20C00F 0xFFFF 0x8000 0 = (0xFF00010000, 0x40) ∧
    mac 0x20E00F 0xFFFF 0xFFFF 0 = (0x01FFFC0002, 0x40) := by decide

/-- V-MAC-8, V-MAC-10 to V-MAC-17: accumulate and subtract. -/
theorem test_mac_accumulate : mac 0x21000F 0x4000 0x4000 0x007FFF0000 = (0x009FFF0000, 0x40) ∧
    mac 0x21200F 0xFFFF 0xFFFF 0 = (0xFFFFFE0002, 0) ∧ mac 0x21400F 0xFFFF 0xFFFF 0 = (0xFFFFFE0002, 0) ∧
    mac 0x21600F 0xFFFF 0xFFFF 0xFF00000000 = (0x00FFFC0002, 0x40) ∧
    mac 0x21800F 0x8000 0x8000 0xFF80000000 = (0xFF00000000, 0x40) ∧
    mac 0x21A00F 0x7FFF 0xFFFF 0 = (0xFF0002FFFE, 0x40) ∧ mac 0x21C00F 0xFFFF 0x7FFF 0 = (0xFF0002FFFE, 0x40) ∧
    mac 0x21E00F 1 1 0 = (0xFFFFFFFFFE, 0) := by decide

/-- V-MAC-18 to V-MAC-23: rounding to even, and the no operation. -/
theorem test_mac_round : mac 0x20200F 1 0x4000 0 = (0, 0) ∧ mac 0x20200F 3 0x4000 0 = (0x0000020000, 0) ∧
    mac 0x20200F 0x8000 0x8000 0 = (0x0080008000, 0x40) ∧
    mac 0x20400F 1 0x4000 0x0000018000 = (0x0000028000, 0) ∧
    mac 0x20600F 1 0x4000 0x0000020000 = (0x0000020000, 0) ∧
    mac 0x20000F 0x1234 0x5678 0x123456789A = (0x123456789A, 0) := by decide

/-- V-MAC-25: `SAT MR` by the sign of `MR`. -/
theorem test_sat_mr :
    (after 0x050000 (small { Bank.reset with mr := 0x0080000001 } 0x40)).bank.mr = 0x007FFFFFFF ∧
    (after 0x050000 (small { Bank.reset with mr := 0xFE00000000 } 0x40)).bank.mr = 0xFF80000000 := by decide

/-- V-SH-1 to V-SH-9: the logical shifts. -/
theorem test_lshift : shift 0x0F00FB 0xB6A3 0 = 0x05B51800 ∧ shift 0x0F0005 0xB6A3 0 = 0xD4600000 ∧
    shift 0x0F00E0 0xB6A3 0 = 0 ∧ shift 0x0F1005 0xB6A3 0 = 0x0016D460 ∧ shift 0x0F1010 0xB6A3 0 = 0xB6A30000 ∧
    shift 0x0F1808 0x00FF 0x12340000 = 0x1234FF00 ∧ shift 0x0F08FF 1 0x0000FFFF = 0x0000FFFF := by decide

/-- V-SH-10 to V-SH-17: the arithmetic shifts. -/
theorem test_ashift : shift 0x0F20FB 0xB6A3 0 = 0xFDB51800 ∧ shift 0x0F2080 0xB6A3 0 = 0xFFFFFFFF ∧
    shift 0x0F2001 0x4000 0 = 0x80000000 ∧ shift 0x0F30FB 0xB6A3 0 = 0xFFFFFDB5 ∧
    shift 0x0F3005 0xB6A3 0 = 0xFFF6D460 ∧ shift 0x0F307F 0xB6A3 0 = 0 ∧ shift 0x0F28E1 0x8000 0 = 0xFFFFFFFF := by
  decide

/-- V-SH-20 to V-SH-23: normalisation, and the carry that enters at bit 31. -/
theorem test_norm :
    (after 0x0E400F (small { Bank.reset with si := 0x0123, se := 0xFFFA })).bank.sr = 0x48C00000 ∧
    (after 0x0E500F (small { Bank.reset with si := 0xFFFF, se := 0xFFFA })).bank.sr = 0x003FFFC0 ∧
    (after 0x0E400F (small { Bank.reset with si := 0x4000, se := 1 } 0x08)).bank.sr = 0xA0000000 ∧
    (after 0x0E400F (small { Bank.reset with si := 0x4000, se := 1 } 0x00)).bank.sr = 0x20000000 := by decide

/-- V-SH-25, V-SH-30, V-SH-35, V-SH-36: the exponent functions. -/
theorem test_exponent :
    (after 0x0E600F (small { Bank.reset with si := 0xFFF0 })).bank.se = 0xFFF5 ∧
    (after 0x0E680F (small { Bank.reset with si := 0x4000 } 0x04)).astat = 0x84 ∧
    (after 0x0E700F (small { Bank.reset with si := 0xFF00, se := 0xFFF1 } 0x80)).bank.se = 0xFFE9 ∧
    (after 0x0E780F (small { Bank.reset with si := 0x0123, sb := 0xFFF0 })).bank.sb = 0xFFFA := by decide

/-- V-DAG-1, V-SRC-2: the mask table and the bit reversal. -/
theorem test_dag_tables :
    [0, 1, 2, 3, 5, 0x100, 0x101, 0x3FFF].map maskTable = [0x3FFF, 0, 1, 3, 7, 0xFF, 0x1FF, 0x3FFF] ∧
    [0, 1, 2, 0x1555].map bitRev = [0, 0x2000, 0x1000, 0x2AAA] := by decide

/-- V-DAG-2: a negative step wraps up in a buffer of 5. -/
theorem test_modify_wraps :
    ((after 0x090000 (writeI 0 0x100 (writeL 0 5 (writeM 0 0x3FFF State.reset)))).gen 0).i = 0x104 := by decide

/-- V-MOV-1: a write of `MR1` fills `MR2`; a write of `SE` sign-extends. -/
theorem test_load_side_effects : (after 0x48000C State.reset).bank.mr = 0xFF80000000 ∧
    (after 0x400859 State.reset).bank.se = 0xFF85 := by decide

/-- V-MOV-2: `LDN` sign-extends. -/
theorem test_load_imm14 : ((after 0x37FFF5 State.reset).gen 1).m = 0xFFFF := by decide

/-- V-MOV-3: a program-memory read leaves the low byte in `PX`. -/
theorem test_pm_read :
    (let t := after 0x500000 (pmWrite 0x100 0xABCDEF (writeI 4 0x100 State.reset))
     (t.bank.ax0, t.px) = (0xABCD, 0xEF)) := by decide

/-- V-MOV-4: the bank switches by mode control. -/
theorem test_bank_switch : (after 0x0C0030 State.reset).mstat = 1 ∧
    (after 0x0C0020 (State.reset.setMstat 1)).mstat = 0 := by decide

/-- The wrap of the loop stack at the fourth push: the empty bit and the wrapped bit (V-CTL-2). -/
theorem test_loop_stack_wraps :
    (let t := after 0x140404 { State.reset with loopStk := { State.reset.loopStk with sp := 3 } }
     (t.loopStk.sp, t.sstat, t.loopEnd) = (0, 0xD4, some 0x40)) := by decide

/-- The line-0 scenario (V-SRC-9). -/
theorem test_line_zero :
    (let t := setIrqLine 0 true ((State.reset.setImask 1).setPc 0x20)
     (t.pc, t.pcStk.top, t.imask, t.sstat) = (0, 0x20, 0, 0x44)) := by decide

/-- The acknowledge of a line taken inside `set_irq_line` (R310, R314). -/
theorem test_acknowledge :
    (setIrqLine 2 true { State.reset with imask := 15, icntl := 0x14 }).events = [.irqAck 2] := by decide

/-- The reset state with devices at both ends of both address spaces. -/
def devices : State := State.reset.setDevices [0, 0x3FFF] [0, 0x3FFF]

/-- A load from a device and a store to one: the host sees each, memory keeps its words (R58, R68). -/
theorem test_device_access :
    (after 0x83FFF0 devices).events = [.dmRead 0x3FFF] ∧ (after 0x900004 devices).events = [.dmWrite 0 0] ∧
    (after 0xA12340 devices).dm = [] ∧ (after 0xA12340 devices).events = [.dmWrite 0 0x1234] := by decide

/-- A loop cell written through the snoop interface keeps 18 bits (R30). -/
theorem test_snoop_loop_cell :
    getRegister (.loopStackAt 0) (setRegister (.loopStackAt 0) 0xFFFFFFFF State.reset) = 0x3FFFF := by decide

/-- `STACK_POLICY` = `refuse`: the pop of an empty PC stack would set its wrapped bit (U3). -/
theorem test_stack_policy_refuse :
    (match underStackPolicy .refuse State.reset (exec (.rts .always) State.reset) with
      | .refused .stackWrapped => true
      | _ => false) = true ∧
    (match underStackPolicy .refuse State.reset (exec (.call 7 .always) State.reset) with
      | .next _ => true
      | _ => false) = true := by decide

/-- The first instruction of the scenario of V-SRC-8 as the first step after reset. -/
theorem test_first_step :
    (let t := stateOf (step (pmWrite 4 0x412340 State.reset))
     (t.bank.ax0, t.pc, t.ppc) = (0x1234, 5, 4)) := by decide

/-- A placed instruction is the one the next step runs, also from an idle core. -/
theorem test_with_fetch_word :
    (stateOf (step (State.reset.withFetchWord 24 0x412340))).bank.ax0 = 0x1234 ∧
    (stateOf (step ((State.reset.setIdle true).withFetchWord 24 0x412340))).bank.ax0 = 0x1234 ∧
    (stateOf (step ((devices.setPc 0).withFetchWord 24 0x412340))).bank.ax0 = 0x1234 := by decide

/-! ## Witnesses: states and operands that meet the hypotheses of each statement -/

/-- A core in which lines 0 and 2 are edge-sensitive, latched and enabled, with nesting as given. -/
def twoLines (nest : Bool) : State :=
  { State.reset with icntl := if nest then 0x15 else 0x05, irqLatch := 5, imask := 15 }

/-- A core at the end address 7 of a loop that runs under the code `t`, with the counter `n`. -/
def looping (t : BitVec 4) (n : Word) : State :=
  { pushLoop 7 t (pushPc 6 State.reset) with pc := 7, cntr := n }

/-- Generator 0 with a buffer, and the step `v` in its modify register. -/
def buffer (base len off v : Nat) : State :=
  State.reset.setGen 0
    { i := BitVec.ofNat 14 (base + off), m := extM (BitVec.ofNat 16 v), l := BitVec.ofNat 14 len,
      mask := maskTable (BitVec.ofNat 14 len), base := BitVec.ofNat 14 base }

theorem witness_DecodeEncode : (Instr.modify 7 4).WellFormed ∧ (Instr.jumpInd 4 .always).WellFormed ∧
    (Instr.computeDual (.alu .sub) .y1 .x1 .ax1 3 0 .ay1 4 7).WellFormed := by decide

theorem witness_IgnoredBitsDropped :
    (0x0AFFEF : OpWord) &&& namedBits 0x0A000F = 0x0A000F &&& namedBits 0x0A000F := by decide

theorem witness_DecodingFollowsTable :
    (0x0AABCF : OpWord) &&& tableMask (.rts .eq) = tableMatch (.rts .eq) := by decide

theorem witness_StepRunsDecoded :
    (let a := arbitrate (pmWrite 4 0x412340 State.reset)
     a.idle = false ∧ a.pc ∉ a.pmDevices ∧
     (decodeBytes [a.pm.read (pmByte a.pc), a.pm.read (pmByte a.pc + 1), a.pm.read (pmByte a.pc + 2)]).toOption
        = some (.loadImm16 0x1234 .ax0, []) ∧
     (Instr.loadImm16 0x1234 .ax0).WellFormed) ∧
    (let a := arbitrate (devices.setPc 0x3FFF)
     a.idle = false ∧ a.pc ∈ a.pmDevices) ∧
    (arbitrate (State.reset.setIdle true)).idle = true := by decide

theorem witness_LoopCheckChoosesPc :
    State.reset.loopEnd ≠ some State.reset.pc ∧
    ((looping 15 0).loopEnd = some (looping 15 0).pc ∧ (looping 15 0).loopTerm ≠ 14 ∧
      condTable (Cond.ofCode (looping 15 0).loopTerm) (looping 15 0).astat = true) ∧
    ((looping 0 0).loopEnd = some (looping 0 0).pc ∧ (looping 0 0).loopTerm ≠ 14 ∧
      condTable (Cond.ofCode (looping 0 0).loopTerm) (looping 0 0).astat = false) ∧
    ((looping 14 2).loopEnd = some (looping 14 2).pc ∧ (looping 14 2).loopTerm = 14 ∧
      1 < (looping 14 2).cntr.toNat) ∧
    (looping 14 1).loopEnd = some (looping 14 1).pc ∧ (looping 14 1).loopTerm = 14 ∧
      (looping 14 1).cntr.toNat ≤ 1 ∧ (looping 14 0).cntr.toNat ≤ 1 := by decide

theorem witness_CountedLoopRunsN :
    (looping 14 1).loopEnd = some 7 ∧ (looping 14 1).loopTerm = 14 ∧ 1 ≤ (looping 14 1).cntr.toNat ∧
    (looping 14 3).loopEnd = some 7 ∧ (looping 14 3).loopTerm = 14 ∧ 1 ≤ (looping 14 3).cntr.toNat ∧
    1 ≤ 2 ∧ 2 < (looping 14 3).cntr.toNat := by decide

theorem witness_ConditionCounts :
    Cond.eq ≠ Cond.notCe ∧ 1 < (looping 14 2).cntr.toNat ∧ (looping 14 1).cntr.toNat ≤ 1 ∧
    (looping 14 0).cntr.toNat ≤ 1 := by decide

theorem witness_CompareAfterSubtract :
    (small Bank.reset 0 0).mstat.getLsbD 2 = false ∧ (small Bank.reset 0 0xB).mstat.getLsbD 2 = false := by
  decide

theorem witness_SaturateClamps : MacFn.mulRnd ≠ MacFn.nop ∧ MacFn.subUU ≠ MacFn.nop := by decide

theorem witness_NormalizeAfterExponent :
    shiftX (small { Bank.reset with si := 0x8000 }).bank .x0 ≠ 0 ∧
    shiftX (small { Bank.reset with si := 1 }).bank .x1 ≠ 0 := by decide

theorem witness_DualFetch : (Instr.computeDual (.mac .addSS) .y0 .x0 .mx0 0 3 .my0 7 4).WellFormed := by decide

theorem witness_RegisterReads :
    (RegGroup.dag1 = .dag1 ∧ 12 ≤ (12#4).toNat) ∧ (RegGroup.dag2 = .dag2 ∧ 12 ≤ (15#4).toNat) ∧
    (RegGroup.ctl = .ctl ∧ 8 ≤ (8#4).toNat) ∧ 8 ≤ (15#4).toNat := by decide

theorem witness_EffectiveAddress :
    0 < 14 ∧ 13 < 14 ∧ ((State.reset.setMstat 2).mstat.getLsbD 1 = true ∧ (3 : Fin 8).val < 4) ∧
    ¬ (4 : Fin 8).val < 4 := by decide

theorem witness_LengthMask :
    (1 : Addr) ≠ 0 ∧ (0x3FFF : Addr) ≠ 0 ∧ (1 : Addr).toNat - 1 ≤ 2 ^ 0 - 1 ∧ (5 : Addr).toNat - 1 ≤ 2 ^ 3 - 1 := by
  decide

/-- What CircularBuffer assumes of generator `n` with the modify register `m`. -/
def InBuffer (s : State) (n m : Fin 8) : Prop :=
  let g := s.gen n
  let v := ((s.gen m).m.extractLsb' 0 14).toInt
  0 < g.l.toNat ∧ -(g.l.toNat : Int) ≤ v ∧ v ≤ g.l.toNat ∧ g.base.toNat ≤ g.i.toNat ∧
    g.i.toNat < g.base.toNat + g.l.toNat ∧ g.base.toNat + g.l.toNat ≤ 16384

theorem witness_CircularBuffer :
    InBuffer (buffer 0x100 5 3 1) 0 0 ∧ InBuffer (buffer 0x100 5 4 5) 0 0 ∧
    InBuffer (buffer 0x100 5 0 0x3FFB) 0 0 ∧ InBuffer (buffer 0x3FF8 8 7 3) 0 0 ∧
    InBuffer (buffer 0 1 0 0) 0 0 ∧ (((buffer 0x100 5 3 1).gen 0).m.extractLsb' 0 14).toInt = 1 := by
  unfold InBuffer
  decide

theorem witness_BufferAddressIsIndex :
    (((State.reset).gen 5).Sound ∧ (State.reset.gen 5).l = 0) ∧
    (let g := (buffer 0x100 5 4 1).gen 0
     g.Sound ∧ g.base.toNat ≤ g.i.toNat ∧ g.i.toNat < g.base.toNat + g.l.toNat) ∧
    (let g := (buffer 0x100 5 0 1).gen 0
     g.Sound ∧ g.base.toNat ≤ g.i.toNat ∧ g.i.toNat < g.base.toNat + g.l.toNat) := by decide

theorem witness_CallThenReturn : 2 ≤ 2 ∧ State.reset.pcStk.sp ≠ 15 := by decide

/-- The reset state with a reserved word at `PC`; a reserved word of each other kind. -/
theorem witness_ReservedWordsOnlyAdvance :
    let s := pmWrite 4 0x01ABCD State.reset
    reservedWord 0x01ABCD ∧ (∀ n, ¬ Requests s n) ∧ s.idle = false ∧ pmRead s s.pc = 0x01ABCD ∧
    reservedWord 0x030000 ∧ reservedWord 0x08FFFF ∧ reservedWord 0x027FFF ∧ reservedWord 0x0F4000 ∧
    pmRead (pmWrite 4 0x0F4000 State.reset) 4 = 0x0F4000 := by
  unfold reservedWord Requests
  refine ⟨by decide, by decide, rfl, by decide, by decide, by decide, by decide, by decide, by decide⟩

/-- The hypotheses of StackPops' two cases of the loop stack, at both ends of the pointer's range. -/
theorem witness_StackPops :
    (popLoop (looping 14 2)).loopStk.sp = 0 ∧
    (popLoop { looping 14 2 with loopStk := { (looping 14 2).loopStk with sp := 2 } }).loopStk.sp.toNat = 0 + 1 ∧
    (popLoop State.reset).loopStk.sp.toNat = 2 + 1 := by decide

theorem witness_ArbitrationTakesHighest :
    (Requests (twoLines true) 2 ∧ ∀ m : Fin 4, 2 < m → ¬ Requests (twoLines true) m) ∧
    Requests { twoLines true with irqLevel := 8 } 3 ∧
    (Requests { twoLines true with irqLatch := 1 } 0 ∧
      ∀ m : Fin 4, 0 < m → ¬ Requests { twoLines true with irqLatch := 1 } m) ∧
    ∀ n : Fin 4, ¬ Requests State.reset n := by
  unfold Requests
  decide

/-- With `NEST` line 2 is taken after the entry of line 0; without it line 0 after the entry of line 2. -/
theorem witness_NestingMasks :
    (arbitrate (enter 0 (twoLines true)) = enter 2 (enter 0 (twoLines true)) ∧
      Requests (enter 0 (twoLines true)) 2 ∧ (twoLines true).icntl.getLsbD 4 = true) ∧
    arbitrate (enter 2 (twoLines false)) = enter 0 (enter 2 (twoLines false)) ∧
    Requests (enter 2 (twoLines false)) 0 := by
  unfold Requests
  exact ⟨⟨rfl, by decide, by decide⟩, rfl, by decide⟩

/-- R71 and log 26: a step that takes line 2 executes the word at its vector (a NOP), also with `NEST` = 0;
line 0 comes at the next step. -/
theorem test_entry_runs_vector_word :
    (let t := stateOf (step (twoLines false))
     (t.ppc, t.pc, t.pcStk.top, takenLine t) = (2, 3, 4, some 0)) := by decide

theorem witness_IdleHoldsUntilTaken :
    (State.reset.setIdle true).idle = true ∧ (∀ n, ¬ Requests (State.reset.setIdle true) n) ∧
    ((twoLines true).setIdle true).idle = true ∧ Requests ((twoLines true).setIdle true) 2 ∧
    ∀ m : Fin 4, 2 < m → ¬ Requests ((twoLines true).setIdle true) m := by
  unfold Requests
  decide

theorem witness_StepKeepsSound :
    (looping 14 2).Sound ∧ step (looping 14 2) = .next (stateOf (step (looping 14 2))) :=
  ⟨by decide, rfl⟩

theorem witness_HostKeepsSound : (looping 14 2).Sound ∧ (looping 0 0).Sound := by decide

theorem witness_WrappedBitsSticky :
    (1 ∈ [1, 3, 5, 7] ∧ (popPc State.reset).sstat.getLsbD 1 = true ∧
      step (popPc State.reset) = .next (stateOf (step (popPc State.reset)))) ∧
    7 ∈ [1, 3, 5, 7] ∧ (popLoop State.reset).sstat.getLsbD 7 = true ∧
      step (popLoop State.reset) = .next (stateOf (step (popLoop State.reset))) :=
  ⟨⟨by decide, by decide, rfl⟩, by decide, by decide, rfl⟩

theorem witness_InactiveBankInvisible :
    exec (.mode 0 0 0 3) State.reset = .next (stateOf (exec (.mode 0 0 0 3) State.reset)) := rfl

theorem witness_OutsideStateInvisible :
    exec (.rti .always) State.reset = .next (stateOf (exec (.rti .always) State.reset)) := rfl

theorem witness_OnlyStoresChangeMemory :
    (exec .idle State.reset = .next (State.reset.setIdle true) ∧ writesPm .idle = false ∧ writesDm .idle = false ∧
      readsPm .idle = false ∧ readsDm .idle = false ∧ State.reset.pmDevices = [] ∧ State.reset.dmDevices = []) ∧
    exec (.storeImm 7 0 0) State.reset = .next (stateOf (exec (.storeImm 7 0 0) State.reset)) ∧
    writesPm (.storeImm 7 0 0) = false :=
  ⟨⟨rfl, by decide, by decide, by decide, by decide, rfl, rfl⟩, rfl, by decide⟩

theorem witness_WordReadAfterWrite :
    (0x3FFE ∉ devices.pmDevices ∧ 0x3FFE ∉ devices.dmDevices) ∧
    0x3FFF ∈ devices.pmDevices ∧ 0x3FFF ∈ devices.dmDevices := by decide

theorem witness_CanonicalMemoryUnique :
    let m : Memory := [(0, 1), (65535, 255)]
    let m' : Memory := Memory.write (Memory.write [] 65535 255) 0 1
    m.wf = true ∧ m'.wf = true ∧ ∀ a, m.read a = m'.read a := ⟨by decide, by decide, fun _ => rfl⟩

theorem witness_ResetAndContext : ∀ n, ¬ Requests State.reset n := by
  unfold Requests
  decide

/-- The cells the snoop reads at the least and the greatest depth of each stack; the places of the ids; an
integer that stands for no name. -/
theorem witness_SnoopWrites :
    (15 + 1 + 0) % 16 = State.reset.pcStk.sp.toNat ∧ (0 + 1 + 15) % 16 = State.reset.pcStk.sp.toNat ∧
    (0 + 1 + 0) % 4 = (looping 14 2).loopStk.sp.toNat ∧ (1 + 1 + 3) % 4 = (looping 14 2).loopStk.sp.toNat ∧
    (3 + 1 + 0) % 4 = State.reset.cntrStk.sp.toNat ∧ (0 + 1 + 3) % 4 = State.reset.stsStk.sp.toNat ∧
    SnoopId.genSp ≠ .outOfRange ∧ Config.snoopInt .pc = Config.snoopInt .pc ∧
    ∀ a : SnoopId, a ≠ .outOfRange → Config.snoopInt a ≠ Config.snoopPerm (-1) ∧
      Config.snoopInt a ≠ Config.snoopPerm Config.snoopNames.length := by
  refine ⟨by decide, by decide, by decide, by decide, by decide, by decide, by decide, rfl, fun a h => ⟨fun e => ?_, fun e => ?_⟩⟩
  · have := Config.snoopPerm.injective e
    omega
  · have hi := List.idxOf_lt_length_of_mem (Config.mem_snoopNames a h)
    have := Config.snoopPerm.injective e
    omega

end Sys2Proof.Tests
end

section
/-! PROOFS. The shapes an instruction's meaning can have: the 93 arms of `exec` are read here once, and what
is said of every instruction below is proved over the shapes. -/

namespace Sys2Proof.Machine

/-- The effects that stand under a condition (R106). -/
inductive Guarded : (State → State) → Prop
  | compute (f : Amf) (z : Bool) (y : Yop) (x : Xop) : Guarded (compute f z y x)
  | shift (f : ShiftFn) (x : Xop) : Guarded fun s => shiftOp f x (seCode s) s
  | jump (a : Addr) : Guarded fun s => s.setPc a
  | call (a : Addr) : Guarded fun s => (pushPc s.pc s).setPc a
  | jumpInd (n : Fin 8) : Guarded fun s => s.setPc (s.gen n).i
  | callInd (n : Fin 8) : Guarded fun s => (pushPc s.pc s).setPc (s.gen n).i
  | rts : Guarded fun s => (popPc s).setPc (topPc s)
  | rti : Guarded returnFromInterrupt

/-- The meanings of instructions: an effect under a condition, or one of the unconditional meanings. -/
inductive Meaning : (State → Result) → Prop
  | gated (c : Cond) {k : State → State} (hk : Guarded k) : Meaning (condDo c k)
  | nop : Meaning execNop
  | idle : Meaning execIdle
  | stk (p l c : Bool) (sts : BitVec 2) : Meaning (execStk p l c sts)
  | satMr : Meaning execSatMr
  | divs (y : Yop) (x : Xop) : Meaning (execDivs y x)
  | divq (x : Xop) : Meaning (execDivq x)
  | modify (n m : Fin 8) : Meaning (execModify n m)
  | mode (arSat avLatch reverse bank : BitVec 2) : Meaning (execMode arSat avLatch reverse bank)
  | move (dg : RegGroup) (di : BitVec 4) (sg : RegGroup) (si : BitVec 4) : Meaning (execMove dg di sg si)
  | immShift (f : ShiftFn) (x : Xop) (e : BitVec 8) : Meaning (immShift f x e)
  | shiftMove (f : ShiftFn) (x : Xop) (d sd : Dreg) : Meaning (execShiftMove f x d sd)
  | shiftPmRead (f : ShiftFn) (x : Xop) (d : Dreg) (n m : Fin 8) : Meaning (execShiftPmRead f x d n m)
  | shiftPmWrite (f : ShiftFn) (x : Xop) (d : Dreg) (n m : Fin 8) : Meaning (execShiftPmWrite f x d n m)
  | shiftDmRead (f : ShiftFn) (x : Xop) (d : Dreg) (n m : Fin 8) : Meaning (execShiftDmRead f x d n m)
  | shiftDmWrite (f : ShiftFn) (x : Xop) (d : Dreg) (n m : Fin 8) : Meaning (execShiftDmWrite f x d n m)
  | doUntil (a : Addr) (t : BitVec 4) : Meaning (execDoUntil a t)
  | computeMove (f : Amf) (z : Bool) (y : Yop) (x : Xop) (d sd : Dreg) :
    Meaning (execComputeMove f z y x d sd)
  | computePmRead (f : Amf) (z : Bool) (y : Yop) (x : Xop) (d : Dreg) (n m : Fin 8) :
    Meaning (execComputePmRead f z y x d n m)
  | computePmWrite (f : Amf) (z : Bool) (y : Yop) (x : Xop) (d : Dreg) (n m : Fin 8) :
    Meaning (execComputePmWrite f z y x d n m)
  | computeDmRead (f : Amf) (z : Bool) (y : Yop) (x : Xop) (d : Dreg) (n m : Fin 8) :
    Meaning (execComputeDmRead f z y x d n m)
  | computeDmWrite (f : Amf) (z : Bool) (y : Yop) (x : Xop) (d : Dreg) (n m : Fin 8) :
    Meaning (execComputeDmWrite f z y x d n m)
  | computeDual (f : Amf) (y : Yop) (x : Xop) (dx : DualX) (dn dm : Fin 8) (dy : DualY) (pn pm : Fin 8) :
    Meaning (execComputeDual f y x dx dn dm dy pn pm)
  | loadImm14 (g : RegGroup) (v : BitVec 14) (r : BitVec 4) : Meaning (execLoadImm14 g v r)
  | loadImm16 (v : Word) (d : Dreg) : Meaning (execLoadImm16 v d)
  | loadDirect (g : RegGroup) (a : Addr) (r : BitVec 4) : Meaning (execLoadDirect g a r)
  | storeDirect (g : RegGroup) (a : Addr) (r : BitVec 4) : Meaning (execStoreDirect g a r)
  | storeImm (v : Word) (n m : Fin 8) : Meaning (execStoreImm v n m)

theorem meaning_condCompute (f : Amf) (z : Bool) (y : Yop) (x : Xop) (c : Cond) :
    Meaning (condCompute f z y x c) := .gated c (.compute f z y x)

theorem meaning_condShift (f : ShiftFn) (x : Xop) (c : Cond) : Meaning (condShift f x c) :=
  .gated c (.shift f x)

/-- Every instruction has one of the meanings. -/
theorem exec_meaning (i : Instr) : Meaning (exec i) := by
  cases i with
  | nop | reserved01 | reserved02 | reserved03 | reserved08 | reservedShi _ _ _ => exact .nop
  | idle => exact .idle
  | stk p l c sts => exact .stk p l c sts
  | satMr => exact .satMr
  | divs y x => exact .divs y x
  | divq x => exact .divq x
  | modify n m => exact .modify n m
  | rts c => exact .gated c .rts
  | rti c => exact .gated c .rti
  | jumpInd n c => exact .gated c (.jumpInd n)
  | callInd n c => exact .gated c (.callInd n)
  | jump a c => exact .gated c (.jump a)
  | call a c => exact .gated c (.call a)
  | mode a v r b => exact .mode a v r b
  | move dg di sg si => exact .move dg di sg si
  | doUntil a t => exact .doUntil a t
  | lshiftHi x c | lshiftHiOr x c | lshiftLo x c | lshiftLoOr x c
  | ashiftHi x c | ashiftHiOr x c | ashiftLo x c | ashiftLoOr x c
  | normHi x c | normHiOr x c | normLo x c | normLoOr x c
  | expHi x c | expHix x c | expLo x c | expAdj x c => exact meaning_condShift _ x c
  | lshiftHiBy x e | lshiftHiOrBy x e | lshiftLoBy x e | lshiftLoOrBy x e
  | ashiftHiBy x e | ashiftHiOrBy x e | ashiftLoBy x e | ashiftLoOrBy x e => exact .immShift _ x e
  | shiftMove f x d sd => exact .shiftMove f x d sd
  | shiftPmRead f x d n m => exact .shiftPmRead f x d n m
  | shiftPmWrite f x d n m => exact .shiftPmWrite f x d n m
  | shiftDmRead f x d n m => exact .shiftDmRead f x d n m
  | shiftDmWrite f x d n m => exact .shiftDmWrite f x d n m
  | ccNop z y x c | ccMulRnd z y x c | ccAddRnd z y x c | ccSubRnd z y x c
  | ccMulSS z y x c | ccMulSU z y x c | ccMulUS z y x c | ccMulUU z y x c
  | ccAddSS z y x c | ccAddSU z y x c | ccAddUS z y x c | ccAddUU z y x c
  | ccSubSS z y x c | ccSubSU z y x c | ccSubUS z y x c | ccSubUU z y x c
  | ccPassY z y x c | ccIncY z y x c | ccAddC z y x c | ccAdd z y x c
  | ccNotY z y x c | ccNegY z y x c | ccSubC z y x c | ccSub z y x c
  | ccDecY z y x c | ccRsub z y x c | ccRsubC z y x c | ccNotX z y x c
  | ccAndXY z y x c | ccOrXY z y x c | ccXorXY z y x c | ccAbsX z y x c =>
    exact meaning_condCompute _ z y x c
  | computeMove f z y x d sd => exact .computeMove f z y x d sd
  | computePmRead f z y x d n m => exact .computePmRead f z y x d n m
  | computePmWrite f z y x d n m => exact .computePmWrite f z y x d n m
  | computeDmRead f z y x d n m => exact .computeDmRead f z y x d n m
  | computeDmWrite f z y x d n m => exact .computeDmWrite f z y x d n m
  | computeDual f y x dx dn dm dy pn pm => exact .computeDual f y x dx dn dm dy pn pm
  | loadImm14 g v r => exact .loadImm14 g v r
  | loadImm16 v d => exact .loadImm16 v d
  | loadDirect g a r => exact .loadDirect g a r
  | storeDirect g a r => exact .storeDirect g a r
  | storeImm v n m => exact .storeImm v n m

end Sys2Proof.Machine
end

section
/-! PROOFS. The hardware stacks (R30 to R36), and the reset state (R38): StackPushes, StackPops, ResetSound,
ResetValues. -/

namespace Sys2Proof.Machine

open Sys2Proof.Claims

variable {α : Type} {k : Nat}

theorem HwStack.push_pushed (st : HwStack α k) (v : α) : Pushed st (st.push v) v := by
  refine ⟨by simp [BitVec.toNat_add], fun i => ?_⟩
  simp [Vector.getElem_set, eq_comm]

theorem HwStack.pop_popped (st : HwStack α k) : Popped st st.pop st.top := by
  refine ⟨?_, rfl, fun i hi => ?_⟩
  · have h : st.sp.toNat = (st.sp - 1 + 1).toNat := by rw [BitVec.sub_add_cancel]
    rw [h, BitVec.toNat_add]
    simp
  · simp only [HwStack.top, Fin.getElem_fin, hi, HwStack.pop_sp]

/-- The top entry by its cell number, the one just below the pointer. -/
theorem HwStack.top_eq_cell (st : HwStack α k) (i : Fin (2 ^ k)) (h : st.sp.toNat = i.val + 1) :
    st.top = st.cells[i] := by
  have hsp : st.sp = BitVec.ofNat k i.val + 1 := calc
    st.sp = BitVec.ofNat k (i.val + 1) := by rw [← h, BitVec.ofNat_toNat, BitVec.setWidth_eq]
    _ = BitVec.ofNat k i.val + 1 := BitVec.ofNat_add _ _
  have hi : (st.sp - 1).toNat = i.val := by
    rw [hsp, BitVec.add_sub_cancel, BitVec.toNat_ofNat, Nat.mod_eq_of_lt i.isLt]
  simp only [HwStack.top, Fin.getElem_fin, hi]

theorem statusFollows_sstatAfter (v : BitVec 8) (e : Nat) (sp : BitVec k) (wraps : Bool) (he : e + 1 < 8) :
    StatusFollows e sp.toNat wraps v (sstatAfter v e (sp == 0) wraps) := by
  intro j _
  have hsp : (sp == 0) = decide (sp.toNat = 0) := by
    rw [Bool.eq_iff_iff, beq_iff_eq, decide_eq_true_iff, ← BitVec.toNat_inj]
    simp
  rw [getLsbD_sstatAfter v e j _ _ he, hsp]

/-- Settles O41: each push is `HwStack.push` on its stack, with `sstatAfter` on the status word. -/
theorem stackPushes : Obligations.StackPushes := by
  intro s
  refine ⟨fun v => ⟨rfl, s.pcStk.push_pushed v, HwStack.top_push _ _, ?_⟩,
    fun e c => ⟨rfl, s.loopStk.push_pushed _, ?_⟩, ⟨rfl, s.cntrStk.push_pushed _, ?_⟩,
    rfl, s.stsStk.push_pushed _, ?_⟩
  · exact statusFollows_sstatAfter _ _ _ _ (by decide)
  · exact statusFollows_sstatAfter _ _ _ _ (by decide)
  · exact statusFollows_sstatAfter _ _ _ _ (by decide)
  · exact statusFollows_sstatAfter _ _ _ _ (by decide)

/-- A loop pop changes the loop stack, its status bits and the active loop. -/
theorem popLoop_frame (s : State) :
    popLoop s = { s with loopStk := (popLoop s).loopStk, sstat := (popLoop s).sstat,
                         loopEnd := (popLoop s).loopEnd, loopTerm := (popLoop s).loopTerm } := by
  unfold popLoop
  dsimp only
  split <;> rfl

theorem popLoop_active_none (s : State) (h : (popLoop s).loopStk.sp = 0) :
    (popLoop s).loopEnd = none ∧ (popLoop s).loopTerm = 0 := by
  rw [popLoop_loopStk, HwStack.pop_sp] at h
  rw [popLoop_loopEnd, popLoop_loopTerm, if_pos h, if_pos h]
  exact ⟨rfl, rfl⟩

theorem popLoop_active_some (s : State) (h : (popLoop s).loopStk.sp ≠ 0) :
    (popLoop s).loopEnd = some (cellEnd (popLoop s).loopStk.top) ∧
    (popLoop s).loopTerm = cellTerm (popLoop s).loopStk.top := by
  rw [popLoop_loopStk, HwStack.pop_sp] at h
  rw [popLoop_loopEnd, popLoop_loopTerm, if_neg h, if_neg h, popLoop_loopStk]
  exact ⟨rfl, rfl⟩

/-- Settles O42: each pop is `HwStack.pop` on its stack, with `sstatAfter` on the status word; the loop pop
reloads the active loop from the entry it uncovers. -/
theorem stackPops : Obligations.StackPops := by
  intro s
  refine ⟨⟨rfl, s.pcStk.pop_popped, ?_⟩, ⟨popLoop_frame s, ?_, ?_, popLoop_active_none s, fun i hi => ?_⟩,
    ⟨rfl, s.cntrStk.pop_popped, ?_⟩, rfl, ?_, ?_⟩
  · exact statusFollows_sstatAfter _ _ _ _ (by decide)
  · rw [popLoop_loopStk]
    exact s.loopStk.pop_popped
  · rw [popLoop_loopStk, popLoop_sstat]
    exact statusFollows_sstatAfter _ _ _ _ (by decide)
  · have hsp : (popLoop s).loopStk.sp ≠ 0 := fun h0 => Nat.succ_ne_zero _ ((h0 ▸ hi).symm)
    have htop := HwStack.top_eq_cell (k := 2) _ i hi
    exact htop ▸ popLoop_active_some s hsp
  · exact statusFollows_sstatAfter _ _ _ _ (by decide)
  · exact s.stsStk.pop_popped
  · exact statusFollows_sstatAfter _ _ _ _ (by decide)

/-! ## Reset -/

theorem reset_gen (n : Fin 8) : State.reset.gen n = Gen.reset := by
  simp [State.gen, State.reset, Context.reset]

theorem reset_loop_cell (i : Fin 4) : State.reset.loopStk.cells[i] = 0 := by
  simp [State.reset, Context.reset]

theorem Bank.reset_sound : Bank.reset.Sound := ⟨rfl, rfl⟩

theorem Gen.reset_sound : Gen.reset.Sound := ⟨rfl, rfl, rfl⟩

/-- Settles O50: both banks and every generator are the sound reset ones, the stacks are empty, and no
memory byte is listed. -/
theorem resetSound : Obligations.ResetSound := by
  refine ⟨Bank.reset_sound, Bank.reset_sound, fun n => ?_, ⟨rfl, rfl, rfl, rfl⟩, .inl ⟨rfl, rfl, rfl⟩,
    fun k => ?_, reset_pm_wf, reset_dm_wf, rfl, rfl⟩
  · rw [reset_gen]
    exact Gen.reset_sound
  · rw [reset_loop_cell]
    rfl

/-- Settles O58: the banks, the generators and the stack cells by their own lemmas, each other register by
its field of `Context.reset`. -/
theorem resetValues : Obligations.ResetValues := by
  refine ⟨fun b hb => ?_, reset_gen, rfl, rfl, rfl, rfl, rfl, rfl, rfl, rfl, rfl, rfl, rfl, rfl, rfl, rfl,
    rfl, rfl, rfl, rfl, rfl, rfl, rfl, fun i => ?_, reset_loop_cell, fun i => ?_, fun i => ?_⟩
  · have hb : b = Bank.reset := by simpa [State.reset, Context.reset] using hb
    subst hb
    exact ⟨rfl, rfl, rfl⟩
  · simp [State.reset, Context.reset]
  · simp [State.reset, Context.reset]
  · simp [State.reset, Context.reset]

end Sys2Proof.Machine
end

section
/-! PROOFS. What no instruction reads or writes: the bank `MSTAT[0]` does not select (R11), the interrupt
lines and latches, the pins, the cycle counter and `PPC` (R18, R28, R29, R90). Every operation commutes with
taking all of that from another state: InactiveBankInvisible, OutsideStateInvisible. -/

namespace Sys2Proof.Machine

open Sys2Proof.Claims

/-- `s` with everything no instruction reaches taken from `d`, where `upper` tells which bank is the active
one. -/
def withHidden (upper : Bool) (d s : State) : State :=
  { s with
    bank0 := if upper then d.bank0 else s.bank0
    bank1 := if upper then s.bank1 else d.bank1
    irqLevel := d.irqLevel
    irqLatch := d.irqLatch
    flagIn := d.flagIn
    flagOut := d.flagOut
    irqExtraCycles := d.irqExtraCycles
    ppc := d.ppc }

/-! ## The replacements that the statements speak of -/

theorem withHidden_self (u : Bool) (s : State) : withHidden u s s = s := by
  cases u <;> rfl

theorem withHidden_putInactiveBank (u : Bool) (b : Bank) (s t : State) :
    withHidden u (putInactiveBank u b s) t = putInactiveBank u b (withHidden u s t) := by
  cases u <;> rfl

theorem withHidden_putOutside (u : Bool) (level latch : BitVec 4) (pinIn pinOut : Bool) (extra : Nat)
    (p : Addr) (s t : State) :
    withHidden u (putOutside level latch pinIn pinOut extra p s) t =
      putOutside level latch pinIn pinOut extra p (withHidden u s t) := rfl

section

variable (u : Bool) (d s : State)

/-! ## Every other piece reads the same -/

@[simp] theorem withHidden_gens : (withHidden u d s).gens = s.gens := rfl
@[simp] theorem withHidden_pc : (withHidden u d s).pc = s.pc := rfl
@[simp] theorem withHidden_loopEnd : (withHidden u d s).loopEnd = s.loopEnd := rfl
@[simp] theorem withHidden_loopTerm : (withHidden u d s).loopTerm = s.loopTerm := rfl
@[simp] theorem withHidden_cntr : (withHidden u d s).cntr = s.cntr := rfl
@[simp] theorem withHidden_astat : (withHidden u d s).astat = s.astat := rfl
@[simp] theorem withHidden_mstat : (withHidden u d s).mstat = s.mstat := rfl
@[simp] theorem withHidden_sstat : (withHidden u d s).sstat = s.sstat := rfl
@[simp] theorem withHidden_imask : (withHidden u d s).imask = s.imask := rfl
@[simp] theorem withHidden_icntl : (withHidden u d s).icntl = s.icntl := rfl
@[simp] theorem withHidden_px : (withHidden u d s).px = s.px := rfl
@[simp] theorem withHidden_idle : (withHidden u d s).idle = s.idle := rfl
@[simp] theorem withHidden_pcStk : (withHidden u d s).pcStk = s.pcStk := rfl
@[simp] theorem withHidden_loopStk : (withHidden u d s).loopStk = s.loopStk := rfl
@[simp] theorem withHidden_cntrStk : (withHidden u d s).cntrStk = s.cntrStk := rfl
@[simp] theorem withHidden_stsStk : (withHidden u d s).stsStk = s.stsStk := rfl
@[simp] theorem withHidden_pm : (withHidden u d s).pm = s.pm := rfl
@[simp] theorem withHidden_dm : (withHidden u d s).dm = s.dm := rfl
@[simp] theorem withHidden_pmDevices : (withHidden u d s).pmDevices = s.pmDevices := rfl
@[simp] theorem withHidden_dmDevices : (withHidden u d s).dmDevices = s.dmDevices := rfl
@[simp] theorem withHidden_events : (withHidden u d s).events = s.events := rfl
@[simp] theorem withHidden_gen (n : Fin 8) : (withHidden u d s).gen n = s.gen n := rfl

theorem withHidden_bank (h : s.mstat.getLsbD Mode.bank = u) : (withHidden u d s).bank = s.bank := by
  subst h
  unfold State.bank
  rw [withHidden_mstat]
  cases hb : s.mstat.getLsbD Mode.bank <;> rfl

/-! ## Every named update commutes -/

@[simp] theorem setGens_withHidden (g : Vector Gen 8) :
    (withHidden u d s).setGens g = withHidden u d (s.setGens g) := rfl
@[simp] theorem setPc_withHidden (a : Addr) :
    (withHidden u d s).setPc a = withHidden u d (s.setPc a) := rfl
@[simp] theorem setLoop_withHidden (e : Option Addr) (v : BitVec 4) :
    (withHidden u d s).setLoop e v = withHidden u d (s.setLoop e v) := rfl
@[simp] theorem setCntr_withHidden (v : Word) :
    (withHidden u d s).setCntr v = withHidden u d (s.setCntr v) := rfl
@[simp] theorem setAstat_withHidden (v : BitVec 8) :
    (withHidden u d s).setAstat v = withHidden u d (s.setAstat v) := rfl
@[simp] theorem setMstat_withHidden (v : BitVec 4) :
    (withHidden u d s).setMstat v = withHidden u d (s.setMstat v) := rfl
@[simp] theorem setImask_withHidden (v : BitVec 4) :
    (withHidden u d s).setImask v = withHidden u d (s.setImask v) := rfl
@[simp] theorem setIcntl_withHidden (v : BitVec 5) :
    (withHidden u d s).setIcntl v = withHidden u d (s.setIcntl v) := rfl
@[simp] theorem setPx_withHidden (v : Byte) :
    (withHidden u d s).setPx v = withHidden u d (s.setPx v) := rfl
@[simp] theorem setIdle_withHidden (b : Bool) :
    (withHidden u d s).setIdle b = withHidden u d (s.setIdle b) := rfl
@[simp] theorem setPm_withHidden (m : Memory) :
    (withHidden u d s).setPm m = withHidden u d (s.setPm m) := rfl
@[simp] theorem setDm_withHidden (m : Memory) :
    (withHidden u d s).setDm m = withHidden u d (s.setDm m) := rfl
@[simp] theorem record_withHidden (e : PortEvent) :
    (withHidden u d s).record e = withHidden u d (s.record e) := rfl
@[simp] theorem setPcStk_withHidden (k : HwStack Addr 4) (v : BitVec 8) :
    (withHidden u d s).setPcStk k v = withHidden u d (s.setPcStk k v) := rfl
@[simp] theorem setLoopStk_withHidden (k : HwStack (BitVec 32) 2) (v : BitVec 8) :
    (withHidden u d s).setLoopStk k v = withHidden u d (s.setLoopStk k v) := rfl
@[simp] theorem setCntrStk_withHidden (k : HwStack Word 2) (v : BitVec 8) :
    (withHidden u d s).setCntrStk k v = withHidden u d (s.setCntrStk k v) := rfl
@[simp] theorem setStsStk_withHidden (k : HwStack StsCell 2) (v : BitVec 8) :
    (withHidden u d s).setStsStk k v = withHidden u d (s.setStsStk k v) := rfl

theorem setBank_withHidden (h : s.mstat.getLsbD Mode.bank = u) (b : Bank) :
    (withHidden u d s).setBank b = withHidden u d (s.setBank b) := by
  subst h
  unfold State.setBank
  rw [withHidden_mstat]
  cases hb : s.mstat.getLsbD Mode.bank <;> rfl

/-! ## The shared operations -/

@[simp] theorem setGen_withHidden (n : Fin 8) (g : Gen) :
    (withHidden u d s).setGen n g = withHidden u d (s.setGen n g) := rfl
@[simp] theorem pushPc_withHidden (v : Addr) :
    pushPc v (withHidden u d s) = withHidden u d (pushPc v s) := rfl
@[simp] theorem topPc_withHidden : topPc (withHidden u d s) = topPc s := rfl
@[simp] theorem popPc_withHidden : popPc (withHidden u d s) = withHidden u d (popPc s) := rfl
@[simp] theorem pushLoop_withHidden (e : Addr) (v : BitVec 4) :
    pushLoop e v (withHidden u d s) = withHidden u d (pushLoop e v s) := rfl
@[simp] theorem popLoop_withHidden : popLoop (withHidden u d s) = withHidden u d (popLoop s) := by
  by_cases h : s.loopStk.pop.sp = 0 <;> simp only [popLoop, withHidden_loopStk, h, if_true, if_false] <;> rfl
@[simp] theorem pushCntr_withHidden : pushCntr (withHidden u d s) = withHidden u d (pushCntr s) := rfl
@[simp] theorem popCntr_withHidden : popCntr (withHidden u d s) = withHidden u d (popCntr s) := rfl
@[simp] theorem pushSts_withHidden : pushSts (withHidden u d s) = withHidden u d (pushSts s) := rfl
@[simp] theorem popSts_withHidden : popSts (withHidden u d s) = withHidden u d (popSts s) := rfl
@[simp] theorem modify_withHidden (n m : Fin 8) :
    modify n m (withHidden u d s) = withHidden u d (modify n m s) := rfl

@[simp] theorem ea_withHidden (n : Fin 8) : ea (withHidden u d s) n = ea s n := rfl

@[simp] theorem pmRead_withHidden (a : Addr) : pmRead (withHidden u d s) a = pmRead s a := rfl
@[simp] theorem dmRead_withHidden (a : Addr) : dmRead (withHidden u d s) a = dmRead s a := rfl

@[simp] theorem afterPmRead_withHidden (a : Addr) :
    afterPmRead a (withHidden u d s) = withHidden u d (afterPmRead a s) := by
  by_cases h : a ∈ s.pmDevices <;> simp [afterPmRead, h]
@[simp] theorem afterDmRead_withHidden (a : Addr) :
    afterDmRead a (withHidden u d s) = withHidden u d (afterDmRead a s) := by
  by_cases h : a ∈ s.dmDevices <;> simp [afterDmRead, h]
@[simp] theorem pmWrite_withHidden (a : Addr) (w : OpWord) :
    pmWrite a w (withHidden u d s) = withHidden u d (pmWrite a w s) := by
  by_cases h : a ∈ s.pmDevices <;> simp [pmWrite, h]
@[simp] theorem dmWrite_withHidden (a : Addr) (v : Word) :
    dmWrite a v (withHidden u d s) = withHidden u d (dmWrite a v s) := by
  by_cases h : a ∈ s.dmDevices <;> simp [dmWrite, h]

@[simp] theorem wrDag_withHidden (upper : Bool) (r : BitVec 4) (v : Word) :
    wrDag upper r v (withHidden u d s) = withHidden u d (wrDag upper r v s) := by
  unfold wrDag
  dsimp only
  split <;> rfl

@[simp] theorem evalCond_withHidden (c : Cond) :
    evalCond c (withHidden u d s) = ((evalCond c s).1, withHidden u d (evalCond c s).2) := by
  cases c with
  | notCe => by_cases h : s.cntr.toNat > 1 <;> simp [evalCond, h]
  | _ => rfl

theorem ite_withHidden (p : Prop) [Decidable p] (s t : State) :
    (if p then withHidden u d s else withHidden u d t) = withHidden u d (if p then s else t) :=
  (apply_ite _ _ _ _).symm

@[simp] theorem returnFromInterrupt_withHidden :
    returnFromInterrupt (withHidden u d s) = withHidden u d (returnFromInterrupt s) := rfl

end

/-! ## The operations that reach a bank, with the active bank the one `MSTAT[0]` selects -/

section

variable {u : Bool} {s : State} (h : s.mstat.getLsbD Mode.bank = u) (d : State)

include h

theorem aluOp_withHidden (f : AluFn) (z : Bool) (y : Yop) (x : Xop) :
    aluOp f z y x (withHidden u d s) = withHidden u d (aluOp f z y x s) := by
  simp [aluOp, withHidden_bank, setBank_withHidden, h]

theorem macOp_withHidden (f : MacFn) (z : Bool) (y : Yop) (x : Xop) :
    macOp f z y x (withHidden u d s) = withHidden u d (macOp f z y x s) := by
  cases f with
  | nop => rfl
  | _ => simp [macOp, withHidden_bank, setBank_withHidden, h]

theorem compute_withHidden (f : Amf) (z : Bool) (y : Yop) (x : Xop) :
    compute f z y x (withHidden u d s) = withHidden u d (compute f z y x s) := by
  cases f with
  | alu f => exact aluOp_withHidden h d f z y x
  | mac f => exact macOp_withHidden h d f z y x

theorem divShift_withHidden (r : Word) (q a : Bool) :
    divShift r q a (withHidden u d s) = withHidden u d (divShift r q a s) := by
  simp [divShift, withHidden_bank, setBank_withHidden, h]

theorem seCode_withHidden : seCode (withHidden u d s) = seCode s := by
  simp [seCode, withHidden_bank, h]

theorem expHi_withHidden (x : Word) : expHi x (withHidden u d s) = withHidden u d (expHi x s) := by
  simp [expHi, withHidden_bank, setBank_withHidden, h]

theorem shiftOp_withHidden (f : ShiftFn) (x : Xop) (sc : Int) :
    shiftOp f x sc (withHidden u d s) = withHidden u d (shiftOp f x sc s) := by
  cases f with
  | expHi => simp [shiftOp, expHi_withHidden, withHidden_bank, h]
  | expHix =>
    by_cases hv : s.astat.getLsbD Flag.av <;>
      simp [shiftOp, expHix, expHi_withHidden, withHidden_bank, setBank_withHidden, h, hv]
  | expLo =>
    by_cases hv : s.bank.se.toInt = -15 <;>
      simp [shiftOp, expLo, withHidden_bank, setBank_withHidden, h, hv]
  | expAdj =>
    by_cases hv : s.bank.sb.toInt < -(red (shiftX s.bank x) : Int) <;>
      simp [shiftOp, expAdj, withHidden_bank, setBank_withHidden, h, hv]
  | _ => simp [shiftOp, putSr, orSr, withHidden_bank, setBank_withHidden, h]

theorem rdDreg_withHidden (r : Dreg) : rdDreg (withHidden u d s) r = rdDreg s r := by
  simp [rdDreg, withHidden_bank, h]

theorem wrDreg_withHidden (r : Dreg) (v : Word) :
    wrDreg r v (withHidden u d s) = withHidden u d (wrDreg r v s) := by
  simp [wrDreg, withHidden_bank, setBank_withHidden, h]

theorem rdReg_withHidden (g : RegGroup) (r : BitVec 4) : rdReg (withHidden u d s) g r = rdReg s g r := by
  cases g with
  | data => exact rdDreg_withHidden h d _
  | dag1 | dag2 => rfl
  | ctl => simp [rdReg, rdCtl, withHidden_bank, h]

theorem wrCtl_withHidden (r : BitVec 4) (v : Word) :
    wrCtl r v (withHidden u d s) = withHidden u d (wrCtl r v s) := by
  unfold wrCtl
  split <;> simp [withHidden_bank, setBank_withHidden, h]

theorem wrReg_withHidden (g : RegGroup) (r : BitVec 4) (v : Word) :
    wrReg g r v (withHidden u d s) = withHidden u d (wrReg g r v s) := by
  cases g with
  | data => exact wrDreg_withHidden h d _ v
  | dag1 => exact wrDag_withHidden u d s false r v
  | dag2 => exact wrDag_withHidden u d s true r v
  | ctl => exact wrCtl_withHidden h d r v

end

/-! ## Every instruction -/

/-- The answer of a meaning, with the next state made `g` of it. -/
def onNext (g : State → State) : Result → Result
  | .next s => .next (g s)
  | .fault e => .fault e
  | .refused e => .refused e

@[simp] theorem onNext_next (g : State → State) (s : State) : onNext g (.next s) = .next (g s) := rfl

section

variable {u : Bool} {s : State} (h : s.mstat.getLsbD Mode.bank = u) (d : State)

include h

theorem guarded_withHidden {k : State → State} (hk : Guarded k) :
    k (withHidden u d s) = withHidden u d (k s) := by
  cases hk with
  | compute f z y x => exact compute_withHidden h d f z y x
  | shift f x => simp [seCode_withHidden, shiftOp_withHidden, h]
  | jump | call | jumpInd | callInd | rts | rti => rfl

theorem condDo_withHidden (c : Cond) {k : State → State} (hk : Guarded k) :
    condDo c k (withHidden u d s) = onNext (withHidden u d) (condDo c k s) := by
  have hc : (evalCond c s).2.mstat.getLsbD Mode.bank = u := by rw [evalCond_mstat, h]
  cases hr : (evalCond c s).1 with
  | true => simp [condDo, hr, guarded_withHidden hc d hk]
  | false => simp [condDo, hr]

/-- Every meaning commutes with taking from `d` what no instruction reaches. -/
theorem meaning_withHidden {m : State → Result} (hm : Meaning m) :
    m (withHidden u d s) = onNext (withHidden u d) (m s) := by
  cases hm with
  | gated c hk => exact condDo_withHidden h d c hk
  | nop | idle | modify | mode | doUntil => rfl
  | stk p l c sts => simp [execStk, ite_withHidden]
  | satMr =>
    by_cases hv : s.astat.getLsbD Flag.mv <;>
      simp [execSatMr, withHidden_bank, setBank_withHidden, h, hv]
  | divs y x => simp [execDivs, withHidden_bank, divShift_withHidden, h]
  | divq x => simp [execDivq, withHidden_bank, divShift_withHidden, h]
  | move dg di sg si => simp [execMove, rdReg_withHidden, wrReg_withHidden, h]
  | immShift f x e => simp [immShift, shiftOp_withHidden, h]
  | loadImm14 g v r => simp [execLoadImm14, wrReg_withHidden, h]
  | loadImm16 v r => simp [execLoadImm16, wrDreg_withHidden, h]
  | loadDirect g a r => simp [execLoadDirect, wrReg_withHidden, h]
  | storeDirect g a r => simp [execStoreDirect, rdReg_withHidden, h]
  | storeImm v n m => simp [execStoreImm]
  | shiftMove f x r sd =>
    simp [execShiftMove, seCode_withHidden, shiftOp_withHidden, rdDreg_withHidden, wrDreg_withHidden, h]
  | shiftPmRead f x r n m =>
    simp [execShiftPmRead, seCode_withHidden, shiftOp_withHidden, wrDreg_withHidden, h]
  | shiftPmWrite f x r n m =>
    simp [execShiftPmWrite, seCode_withHidden, shiftOp_withHidden, rdDreg_withHidden, h]
  | shiftDmRead f x r n m =>
    simp [execShiftDmRead, seCode_withHidden, shiftOp_withHidden, wrDreg_withHidden, h]
  | shiftDmWrite f x r n m =>
    simp [execShiftDmWrite, seCode_withHidden, shiftOp_withHidden, rdDreg_withHidden, h]
  | computeMove f z y x r sd =>
    simp [execComputeMove, compute_withHidden, rdDreg_withHidden, wrDreg_withHidden, h]
  | computePmRead f z y x r n m => simp [execComputePmRead, compute_withHidden, wrDreg_withHidden, h]
  | computePmWrite f z y x r n m => simp [execComputePmWrite, compute_withHidden, rdDreg_withHidden, h]
  | computeDmRead f z y x r n m => simp [execComputeDmRead, compute_withHidden, wrDreg_withHidden, h]
  | computeDmWrite f z y x r n m => simp [execComputeDmWrite, compute_withHidden, rdDreg_withHidden, h]
  | computeDual f y x dx dn dm dy pn pm =>
    simp [execComputeDual, compute_withHidden, wrDreg_withHidden, h]

/-- An instruction run from the state with its hidden part taken from `d` ends in the same state up to
that part. -/
theorem exec_withHidden {i : Instr} {t : State} (he : exec i s = .next t) :
    exec i (withHidden u d s) = .next (withHidden u d t) := by
  rw [meaning_withHidden h d (exec_meaning i), he, onNext_next]

/-- An instruction leaves the hidden part as it was. -/
theorem exec_keeps_hidden {i : Instr} {t : State} (he : exec i s = .next t) : withHidden u s t = t := by
  have hs := exec_withHidden h s he
  rw [withHidden_self, he] at hs
  exact (Host.Outcome.next.inj hs).symm

end

/-- Settles O53: the state with the inactive bank replaced is the state with its hidden part taken from
there. -/
theorem inactiveBankInvisible : Obligations.InactiveBankInvisible := by
  intro i b s t upper he
  have hw := exec_withHidden (u := upper) rfl (putInactiveBank upper b s) he
  rwa [withHidden_putInactiveBank, withHidden_putInactiveBank, withHidden_self,
    exec_keeps_hidden (u := upper) rfl he] at hw

/-- Settles O54: the state with the outside replaced is the state with its hidden part taken from there. -/
theorem outsideStateInvisible : Obligations.OutsideStateInvisible := by
  intro i level latch pinIn pinOut extra p s t he
  have hw := exec_withHidden rfl (putOutside level latch pinIn pinOut extra p s) he
  rwa [withHidden_putOutside, withHidden_putOutside, withHidden_self, exec_keeps_hidden rfl he] at hw

end Sys2Proof.Machine
end

section
/-! PROOFS. What a step can do to the state, as a chain of primitive changes. The invariants of a state are
proved over the primitive changes alone: StepKeepsSound, WrappedBitsSticky. -/

namespace Sys2Proof.Machine

/-! ## Sign-extended cells (R14, R16, R207, R212) -/

theorem setWidth_signExtend {w : Nat} (v : BitVec w) (n : Nat) (h : w ≤ n) :
    (v.signExtend n).setWidth w = v := by
  apply BitVec.eq_of_getLsbD_eq
  intro i hi
  have hn : i < n := by omega
  simp [BitVec.getElem_signExtend, hi, hn]

theorem extSe_idem (v : Word) : extSe v = extSe (extSe v) := by
  simp only [extSe, setWidth_signExtend (v.setWidth 8) 16 (by decide)]

theorem extSb_idem (v : Word) : extSb v = extSb (extSb v) := by
  simp only [extSb, setWidth_signExtend (v.setWidth 5) 16 (by decide)]

theorem extM_idem (v : Word) : extM v = extM (extM v) := by
  simp only [extM, setWidth_signExtend (v.setWidth 14) 16 (by decide)]

theorem runLength_le (x : Word) (b : Bool) (k : Nat) : runLength x b k ≤ k := by
  induction k with
  | zero => exact Nat.le_refl 0
  | succ k ih =>
    unfold runLength
    split <;> omega

theorem red_le (x : Word) : red x ≤ 15 := runLength_le x x.msb 15

/-- The negated lengths that the exponent operations write fit in the 8 bits of `SE`. -/
theorem negWord_eq_extSe {k : Nat} (h : k ≤ 31) : negWord k = extSe (negWord k) := by
  have all : ∀ j < 32, negWord j = extSe (negWord j) := by decide
  exact all k (by omega)

/-- The negated `red` that `EXPADJ` writes fits in the 5 bits of `SB`. -/
theorem negWord_eq_extSb {k : Nat} (h : k ≤ 15) : negWord k = extSb (negWord k) := by
  have all : ∀ j < 16, negWord j = extSb (negWord j) := by decide
  exact all k (by omega)

/-! ## Sound banks and generators -/

theorem Bank.write_sound {b : Bank} (h : b.Sound) (d : Dreg) (v : Word) : (b.write d v).Sound := by
  cases d with
  | se => exact ⟨extSe_idem v, h.2⟩
  | _ => exact h

theorem Bank.putAlu_sound {b : Bank} (h : b.Sound) (z : Bool) (r : Word) : (b.putAlu z r).Sound := by
  cases z <;> exact h

theorem Gen.writeI_sound {g : Gen} (h : g.Sound) (a : Addr) :
    Gen.Sound { g with i := a, base := a &&& ~~~g.mask } := by
  obtain ⟨hm, hmask, _⟩ := h
  refine ⟨hm, hmask, ?_⟩
  simp [BitVec.and_assoc]

theorem Gen.writeL_sound {g : Gen} (h : g.Sound) (l : Addr) :
    Gen.Sound { g with l := l, mask := maskTable l, base := g.i &&& ~~~maskTable l } :=
  ⟨h.1, rfl, by simp [BitVec.and_assoc]⟩

/-! ## The status word -/

theorem sstatAfter_own (v : BitVec 8) {e : Nat} (he : e + 1 < 8) (empty wraps : Bool) :
    (sstatAfter v e empty wraps).getLsbD e = empty := by
  rw [getLsbD_sstatAfter v e e _ _ he, if_pos rfl]

theorem sstatAfter_other (v : BitVec 8) {e j : Nat} (he : e + 1 < 8) (hj : j ≠ e) (hj' : j ≠ e + 1)
    (empty wraps : Bool) : (sstatAfter v e empty wraps).getLsbD j = v.getLsbD j := by
  rw [getLsbD_sstatAfter v e j _ _ he, if_neg hj, if_neg hj']

/-- A bit that is set stays set where it is not the empty bit. -/
theorem sstatAfter_keeps (v : BitVec 8) {e j : Nat} (he : e + 1 < 8) (hj : j ≠ e) (empty wraps : Bool)
    (h : v.getLsbD j = true) : (sstatAfter v e empty wraps).getLsbD j = true := by
  rw [getLsbD_sstatAfter v e j _ _ he, if_neg hj, h, Bool.true_or, ite_self]

/-! ## The primitive changes -/

/-- One primitive change of the state. A bank or a generator is replaced by one that is sound if the old one
is; a stack other than the loop stack is replaced together with its bits of `SSTAT`. -/
inductive Change : State → State → Prop
  | bank {s : State} (b : Bank) (hb : s.bank.Sound → b.Sound) : Change s (s.setBank b)
  | gen {s : State} (n : Fin 8) (g : Gen) (hg : (s.gen n).Sound → g.Sound) : Change s (s.setGen n g)
  | pc {s : State} (a : Addr) : Change s (s.setPc a)
  | ppc {s : State} (a : Addr) : Change s (s.setPpc a)
  | cntr {s : State} (v : Word) : Change s (s.setCntr v)
  | astat {s : State} (v : BitVec 8) : Change s (s.setAstat v)
  | mstat {s : State} (v : BitVec 4) : Change s (s.setMstat v)
  | imask {s : State} (v : BitVec 4) : Change s (s.setImask v)
  | icntl {s : State} (v : BitVec 5) : Change s (s.setIcntl v)
  | px {s : State} (v : Byte) : Change s (s.setPx v)
  | irqLatch {s : State} (v : BitVec 4) : Change s (s.setIrqLatch v)
  | idle {s : State} (b : Bool) : Change s (s.setIdle b)
  | record {s : State} (e : PortEvent) : Change s (s.record e)
  | pcStk {s : State} (k : HwStack Addr 4) (wraps : Bool) :
    Change s (s.setPcStk k (sstatAfter s.sstat pcEmptyBit (k.sp == 0) wraps))
  | cntrStk {s : State} (k : HwStack Word 2) (wraps : Bool) :
    Change s (s.setCntrStk k (sstatAfter s.sstat cntrEmptyBit (k.sp == 0) wraps))
  | stsStk {s : State} (k : HwStack StsCell 2) (wraps : Bool) :
    Change s (s.setStsStk k (sstatAfter s.sstat stsEmptyBit (k.sp == 0) wraps))
  | pushLoop {s : State} (e : Addr) (t : BitVec 4) : Change s (pushLoop e t s)
  | popLoop {s : State} : Change s (popLoop s)
  | putPm {s : State} (a : Addr) (w : OpWord) : Change s (s.setPm (s.pm.putPm a w))
  | putDm {s : State} (a : Addr) (v : Word) : Change s (s.setDm (s.dm.putDm a v))

/-- A chain of primitive changes. -/
def Changes : State → State → Prop := Relation.ReflTransGen Change

/-! ## The operations as chains: each goes on from a chain that has reached `t` -/

namespace Changes

variable {s t u : State}

theorem refl (s : State) : Changes s s := Relation.ReflTransGen.refl

theorem step (h : Changes s t) (c : Change t u) : Changes s u := Relation.ReflTransGen.tail h c

theorem trans (h : Changes s t) (h' : Changes t u) : Changes s u := Relation.ReflTransGen.trans h h'

theorem ite {p : Prop} [Decidable p] (h : Changes s t) (h' : Changes s u) :
    Changes s (if p then t else u) := by
  split
  · exact h
  · exact h'

/-- A sound bank with any flags byte: what a computation leaves. -/
theorem bankFlags {b : Bank} {f : BitVec 8} (h : Changes s t) (hb : t.bank.Sound → b.Sound) :
    Changes s ((t.setBank b).setAstat f) := (h.step (.bank b hb)).step (.astat f)

theorem pushPc (h : Changes s t) (v : Addr) : Changes s (pushPc v t) := h.step (.pcStk _ _)

theorem popPc (h : Changes s t) : Changes s (popPc t) := h.step (.pcStk _ _)

theorem pushCntr (h : Changes s t) : Changes s (pushCntr t) := h.step (.cntrStk _ _)

theorem popCntr (h : Changes s t) : Changes s (popCntr t) := (h.step (.cntrStk _ _)).step (.cntr _)

theorem pushSts (h : Changes s t) : Changes s (pushSts t) := h.step (.stsStk _ _)

theorem popSts (h : Changes s t) : Changes s (popSts t) :=
  (((h.step (.stsStk _ _)).step (.astat _)).step (.mstat _)).step (.imask _)

theorem popLoop (h : Changes s t) : Changes s (popLoop t) := h.step .popLoop

theorem modify (h : Changes s t) (n m : Fin 8) : Changes s (modify n m t) :=
  h.step (.gen n _ fun hg => hg)

theorem writeI (h : Changes s t) (n : Fin 8) (v : Word) : Changes s (writeI n v t) :=
  h.step (.gen n _ fun hg => Gen.writeI_sound hg _)

theorem writeM (h : Changes s t) (n : Fin 8) (v : Word) : Changes s (writeM n v t) :=
  h.step (.gen n _ fun hg => ⟨extM_idem v, hg.2⟩)

theorem writeL (h : Changes s t) (n : Fin 8) (v : Word) : Changes s (writeL n v t) :=
  h.step (.gen n _ fun hg => Gen.writeL_sound hg _)

theorem afterPmRead (h : Changes s t) (a : Addr) : Changes s (afterPmRead a t) := .ite (h.step (.record _)) h

theorem afterDmRead (h : Changes s t) (a : Addr) : Changes s (afterDmRead a t) := .ite (h.step (.record _)) h

theorem pmWrite (h : Changes s t) (a : Addr) (w : OpWord) : Changes s (pmWrite a w t) :=
  .ite (h.step (.record _)) (h.step (.putPm a w))

theorem dmWrite (h : Changes s t) (a : Addr) (v : Word) : Changes s (dmWrite a v t) :=
  .ite (h.step (.record _)) (h.step (.putDm a v))

theorem evalCond (h : Changes s t) (c : Cond) : Changes s (evalCond c t).2 := by
  rcases evalCond_cases t c with ⟨_, e⟩ | ⟨_, _, e⟩ | ⟨_, _, e⟩ <;> rw [e]
  · exact h
  · exact h.step (.cntr _)
  · exact (h.step (.cntr _)).popCntr

theorem wrDreg (h : Changes s t) (d : Dreg) (v : Word) : Changes s (wrDreg d v t) :=
  h.step (.bank _ fun hb => Bank.write_sound hb d v)

theorem wrDag (h : Changes s t) (upper : Bool) (r : BitVec 4) (v : Word) : Changes s (wrDag upper r v t) := by
  rcases wrDag_cases t upper r v with e | e | e | e <;> rw [e]
  · exact h.writeI _ v
  · exact h.writeM _ v
  · exact h.writeL _ v
  · exact h

theorem wrCtl (h : Changes s t) (r : BitVec 4) (v : Word) : Changes s (wrCtl r v t) := by
  rcases wrCtl_cases t r v with e | e | e | e | e | e | e | e <;> rw [e]
  · exact h.step (.astat _)
  · exact h.step (.mstat _)
  · exact h.step (.imask _)
  · exact h.step (.icntl _)
  · exact h.pushCntr.step (.cntr _)
  · exact h.step (.bank _ fun hb => ⟨hb.1, extSb_idem v⟩)
  · exact h.step (.px _)
  · exact h

theorem wrReg (h : Changes s t) (g : RegGroup) (r : BitVec 4) (v : Word) : Changes s (wrReg g r v t) := by
  cases g with
  | data => exact h.wrDreg _ v
  | dag1 => exact h.wrDag false r v
  | dag2 => exact h.wrDag true r v
  | ctl => exact h.wrCtl r v

theorem aluOp (h : Changes s t) (f : AluFn) (z : Bool) (y : Yop) (x : Xop) : Changes s (aluOp f z y x t) :=
  h.bankFlags fun hb => Bank.putAlu_sound hb z _

theorem macOp (h : Changes s t) (f : MacFn) (z : Bool) (y : Yop) (x : Xop) : Changes s (macOp f z y x t) := by
  cases f with
  | nop => exact h
  | _ => cases z <;> exact h.bankFlags fun hb => hb

theorem compute (h : Changes s t) (f : Amf) (z : Bool) (y : Yop) (x : Xop) :
    Changes s (compute f z y x t) := by
  cases f with
  | alu f => exact h.aluOp f z y x
  | mac f => exact h.macOp f z y x

theorem divShift (h : Changes s t) (r : Word) (q a : Bool) : Changes s (divShift r q a t) :=
  h.bankFlags fun hb => hb

theorem expHi (h : Changes s t) (x : Word) : Changes s (expHi x t) :=
  h.bankFlags fun hb => ⟨negWord_eq_extSe (Nat.le_trans (red_le x) (by decide)), hb.2⟩

theorem expHix (h : Changes s t) (x : Word) : Changes s (expHix x t) :=
  .ite (h.bankFlags fun hb => ⟨rfl, hb.2⟩) (h.expHi x)

theorem expLo (h : Changes s t) (x : Word) : Changes s (expLo x t) := by
  have hr := runLength_le x (t.astat.getLsbD Flag.ss) 16
  exact .ite (h.step (.bank _ fun hb => ⟨negWord_eq_extSe (by omega), hb.2⟩)) h

theorem expAdj (h : Changes s t) (x : Word) : Changes s (expAdj x t) :=
  .ite (h.step (.bank _ fun hb => ⟨hb.1, negWord_eq_extSb (red_le x)⟩)) h

theorem shiftOp (h : Changes s t) (f : ShiftFn) (x : Xop) (sc : Int) : Changes s (shiftOp f x sc t) := by
  cases f with
  | expHi => exact h.expHi _
  | expHix => exact h.expHix _
  | expLo => exact h.expLo _
  | expAdj => exact h.expAdj _
  | _ => exact h.step (.bank _ fun hb => hb)

theorem returnFromInterrupt (h : Changes s t) : Changes s (returnFromInterrupt t) :=
  (h.popPc.step (.pc _)).popSts

theorem enter (h : Changes s t) (n : Fin 4) : Changes s (enter n t) :=
  (((((h.step (.record _)).step (.irqLatch _)).pushPc _).pushSts.step (.pc _)).step (.idle _)).step (.imask _)

theorem arbitrate (h : Changes s t) : Changes s (arbitrate t) := by
  rcases arbitrate_cases t with ⟨_, e⟩ | ⟨n, _, e⟩ <;> rw [e]
  · exact h
  · exact h.enter n

theorem loopCheck (h : Changes s t) : Changes s (loopCheck t) := by
  rcases loopCheck_cases t with ⟨_, e⟩ | ⟨_, _, e⟩ | ⟨_, _, e⟩ <;> rw [e]
  · exact h.step (.pc _)
  · exact (h.evalCond _).step (.pc _)
  · exact (h.evalCond _).popLoop.popPc.step (.pc _)

theorem guarded (h : Changes s t) {k : State → State} (hk : Guarded k) : Changes s (k t) := by
  cases hk with
  | compute f z y x => exact h.compute f z y x
  | shift f x => exact h.shiftOp f x _
  | jump | jumpInd => exact h.step (.pc _)
  | call | callInd => exact (h.pushPc _).step (.pc _)
  | rts => exact h.popPc.step (.pc _)
  | rti => exact h.returnFromInterrupt

end Changes

/-- What `STK` does, its four parts in order (R250). -/
theorem execStk_changes (p l c : Bool) (sts : BitVec 2) (s : State) :
    ∃ t, execStk p l c sts s = .next t ∧ Changes s t := by
  refine ⟨_, rfl, ?_⟩
  have h1 : Changes s (if p then popPc s else s) := .ite (Changes.refl s).popPc (.refl s)
  have h2 := Changes.ite (p := l = true) h1.popLoop h1
  have h3 := Changes.ite (p := c = true) h2.popCntr h2
  exact .ite (.ite h3.popSts h3.pushSts) h3

/-- Every meaning answers a next state, by a chain of primitive changes. -/
theorem meaning_changes {m : State → Result} (hm : Meaning m) (s : State) :
    ∃ t, m s = .next t ∧ Changes s t := by
  have h := Changes.refl s
  cases hm with
  | gated c hk => exact ⟨_, rfl, .ite ((h.evalCond c).guarded hk) (h.evalCond c)⟩
  | nop => exact ⟨_, rfl, h⟩
  | idle => exact ⟨_, rfl, h.step (.idle true)⟩
  | stk p l c sts => exact execStk_changes p l c sts s
  | satMr => exact ⟨_, rfl, .ite (h.step (.bank _ fun hb => hb)) h⟩
  | divs => exact ⟨_, rfl, h.divShift _ _ _⟩
  | divq => exact ⟨_, rfl, h.divShift _ _ _⟩
  | modify n m => exact ⟨_, rfl, h.modify n m⟩
  | mode => exact ⟨_, rfl, h.step (.mstat _)⟩
  | move dg di => exact ⟨_, rfl, h.wrReg dg di _⟩
  | immShift f x => exact ⟨_, rfl, h.shiftOp f x _⟩
  | shiftMove f x d => exact ⟨_, rfl, (h.shiftOp f x _).wrDreg d _⟩
  | shiftPmRead f x d n m =>
    exact ⟨_, rfl, ((((h.shiftOp f x _).afterPmRead _).step (.px _)).modify n m).wrDreg d _⟩
  | shiftPmWrite f x d n m => exact ⟨_, rfl, ((h.shiftOp f x _).pmWrite _ _).modify n m⟩
  | shiftDmRead f x d n m => exact ⟨_, rfl, (((h.shiftOp f x _).afterDmRead _).modify n m).wrDreg d _⟩
  | shiftDmWrite f x d n m => exact ⟨_, rfl, ((h.shiftOp f x _).dmWrite _ _).modify n m⟩
  | doUntil a c => exact ⟨_, rfl, (h.step (.pushLoop a c)).pushPc _⟩
  | computeMove f z y x d => exact ⟨_, rfl, (h.compute f z y x).wrDreg d _⟩
  | computePmRead f z y x d n m =>
    exact ⟨_, rfl, ((((h.compute f z y x).afterPmRead _).step (.px _)).modify n m).wrDreg d _⟩
  | computePmWrite f z y x d n m => exact ⟨_, rfl, ((h.compute f z y x).pmWrite _ _).modify n m⟩
  | computeDmRead f z y x d n m =>
    exact ⟨_, rfl, (((h.compute f z y x).afterDmRead _).modify n m).wrDreg d _⟩
  | computeDmWrite f z y x d n m => exact ⟨_, rfl, ((h.compute f z y x).dmWrite _ _).modify n m⟩
  | computeDual f y x dx dn dm dy pn pm =>
    have h1 := ((h.compute f false y x).afterDmRead (ea s dn)).afterPmRead (ea s pn)
    exact ⟨_, rfl, ((((h1.step (.px _)).modify dn dm).modify pn pm).wrDreg _ _).wrDreg _ _⟩
  | loadImm14 g v r => exact ⟨_, rfl, h.wrReg g r _⟩
  | loadImm16 v d => exact ⟨_, rfl, h.wrDreg d v⟩
  | loadDirect g a r => exact ⟨_, rfl, (h.afterDmRead a).wrReg g r _⟩
  | storeDirect g a => exact ⟨_, rfl, h.dmWrite a _⟩
  | storeImm v n m => exact ⟨_, rfl, (h.dmWrite _ v).modify n m⟩

/-- A step is a chain of primitive changes. -/
theorem step_changes {s t : State} (h : step s = .next t) : Changes s t := by
  have ha := (Changes.refl s).arbitrate
  rcases step_cases s with ⟨_, e⟩ | ⟨_, e⟩ <;> rw [e] at h
  · cases h
    exact ha
  · obtain ⟨t', ht, hc⟩ := meaning_changes (exec_meaning _) (loopCheck (afterFetch
      ((arbitrate s).setPpc (arbitrate s).pc)))
    cases h.symm.trans ht
    exact (((ha.step (.ppc _)).afterPmRead _).loopCheck).trans hc

/-- What every primitive change keeps, a chain of them keeps. -/
theorem Changes.keeps {p : State → Prop} (hp : ∀ {s t}, Change s t → p s → p t) {s t : State}
    (h : Changes s t) (hs : p s) : p t := by
  induction h with
  | refl => exact hs
  | tail _ c ih => exact hp c ih

/-! ## Soundness over the primitive changes -/

theorem State.bank_sound {s : State} (h0 : s.bank0.Sound) (h1 : s.bank1.Sound) : s.bank.Sound := by
  unfold State.bank
  split
  · exact h1
  · exact h0

theorem cellEnd_loopCell (e : Addr) (t : BitVec 4) : cellEnd (loopCell e t) = e := by
  simp [cellEnd, loopCell]

theorem cellTerm_loopCell (e : Addr) (t : BitVec 4) : cellTerm (loopCell e t) = t := by
  simp [cellTerm, loopCell]

theorem loopCell_upper (e : Addr) (t : BitVec 4) : (loopCell e t).extractLsb' 18 14 = 0 := by
  simp [loopCell]

theorem pushLoop_loopSound (e : Addr) (t : BitVec 4) (s : State) : (pushLoop e t s).LoopSound := by
  refine .inr ?_
  rw [pushLoop_loopStk, HwStack.top_push, cellEnd_loopCell, cellTerm_loopCell]
  exact ⟨rfl, rfl⟩

theorem popLoop_loopSound (s : State) : (popLoop s).LoopSound := by
  by_cases h : (popLoop s).loopStk.sp = 0
  · obtain ⟨he, ht⟩ := popLoop_active_none s h
    exact .inl ⟨he, ht, h⟩
  · exact .inr (popLoop_active_some s h)

theorem pushLoop_loopCellsSound {s : State} (h : s.LoopCellsSound) (e : Addr) (t : BitVec 4) :
    (pushLoop e t s).LoopCellsSound := by
  intro k
  rw [pushLoop_loopStk, (s.loopStk.push_pushed (loopCell e t)).2 k]
  split
  · exact loopCell_upper e t
  · exact h k

/-! A stack replaced together with its bits of `SSTAT` keeps the empty bits of all four (R23, R35). -/

theorem setPcStk_emptyBitsSound {s : State} (h : s.EmptyBitsSound) (k : HwStack Addr 4) (w : Bool) :
    (s.setPcStk k (sstatAfter s.sstat pcEmptyBit (k.sp == 0) w)).EmptyBitsSound := by
  obtain ⟨hpc, hcntr, hsts, hloop⟩ := h
  exact ⟨sstatAfter_own _ (by decide) _ _,
    (sstatAfter_other _ (by decide) (by decide) (by decide) _ _).trans hcntr,
    (sstatAfter_other _ (by decide) (by decide) (by decide) _ _).trans hsts,
    (sstatAfter_other _ (by decide) (by decide) (by decide) _ _).trans hloop⟩

theorem setCntrStk_emptyBitsSound {s : State} (h : s.EmptyBitsSound) (k : HwStack Word 2) (w : Bool) :
    (s.setCntrStk k (sstatAfter s.sstat cntrEmptyBit (k.sp == 0) w)).EmptyBitsSound := by
  obtain ⟨hpc, hcntr, hsts, hloop⟩ := h
  exact ⟨(sstatAfter_other _ (by decide) (by decide) (by decide) _ _).trans hpc,
    sstatAfter_own _ (by decide) _ _,
    (sstatAfter_other _ (by decide) (by decide) (by decide) _ _).trans hsts,
    (sstatAfter_other _ (by decide) (by decide) (by decide) _ _).trans hloop⟩

theorem setStsStk_emptyBitsSound {s : State} (h : s.EmptyBitsSound) (k : HwStack StsCell 2) (w : Bool) :
    (s.setStsStk k (sstatAfter s.sstat stsEmptyBit (k.sp == 0) w)).EmptyBitsSound := by
  obtain ⟨hpc, hcntr, hsts, hloop⟩ := h
  exact ⟨(sstatAfter_other _ (by decide) (by decide) (by decide) _ _).trans hpc,
    (sstatAfter_other _ (by decide) (by decide) (by decide) _ _).trans hcntr,
    sstatAfter_own _ (by decide) _ _,
    (sstatAfter_other _ (by decide) (by decide) (by decide) _ _).trans hloop⟩

theorem setLoopStk_emptyBitsSound {s : State} (h : s.EmptyBitsSound) (k : HwStack (BitVec 32) 2) (w : Bool) :
    (s.setLoopStk k (sstatAfter s.sstat loopEmptyBit (k.sp == 0) w)).EmptyBitsSound := by
  obtain ⟨hpc, hcntr, hsts, hloop⟩ := h
  exact ⟨(sstatAfter_other _ (by decide) (by decide) (by decide) _ _).trans hpc,
    (sstatAfter_other _ (by decide) (by decide) (by decide) _ _).trans hcntr,
    (sstatAfter_other _ (by decide) (by decide) (by decide) _ _).trans hsts,
    sstatAfter_own _ (by decide) _ _⟩

theorem pushLoop_emptyBitsSound {s : State} (h : s.EmptyBitsSound) (e : Addr) (t : BitVec 4) :
    (pushLoop e t s).EmptyBitsSound :=
  setLoopStk_emptyBitsSound h _ _

theorem popLoop_emptyBitsSound {s : State} (h : s.EmptyBitsSound) : (popLoop s).EmptyBitsSound := by
  rw [popLoop_frame, popLoop_sstat, popLoop_loopStk]
  exact setLoopStk_emptyBitsSound h s.loopStk.pop _

theorem popLoop_loopCellsSound {s : State} (h : s.LoopCellsSound) : (popLoop s).LoopCellsSound := by
  intro k
  rw [popLoop_loopStk]
  exact h k

/-- Every primitive change keeps a sound state sound. -/
theorem Change.sound {s t : State} (h : Change s t) (hs : s.Sound) : t.Sound := by
  have ⟨hb0, hb1, hgen, hempty, hact, hcells, hmem⟩ := hs
  cases h with
  | pc | ppc | cntr | astat | mstat | imask | icntl | px | irqLatch | idle | record => exact hs
  | bank b hb =>
    have hb := hb (State.bank_sound hb0 hb1)
    unfold State.setBank
    split
    · exact ⟨hb0, hb, hgen, hempty, hact, hcells, hmem⟩
    · exact ⟨hb, hb1, hgen, hempty, hact, hcells, hmem⟩
  | gen n g hg =>
    refine ⟨hb0, hb1, fun k => ?_, hempty, hact, hcells, hmem⟩
    rw [State.setGen_gen]
    split
    · exact hg (hgen n)
    · exact hgen k
  | pcStk k w => exact ⟨hb0, hb1, hgen, setPcStk_emptyBitsSound hempty k w, hact, hcells, hmem⟩
  | cntrStk k w => exact ⟨hb0, hb1, hgen, setCntrStk_emptyBitsSound hempty k w, hact, hcells, hmem⟩
  | stsStk k w => exact ⟨hb0, hb1, hgen, setStsStk_emptyBitsSound hempty k w, hact, hcells, hmem⟩
  | pushLoop e c =>
    exact ⟨hb0, hb1, hgen, pushLoop_emptyBitsSound hempty e c, pushLoop_loopSound e c s,
      pushLoop_loopCellsSound hcells e c, hmem⟩
  | popLoop =>
    refine ⟨?_, ?_, fun n => ?_, popLoop_emptyBitsSound hempty, popLoop_loopSound s,
      popLoop_loopCellsSound hcells, ?_⟩
    · rw [popLoop_bank0]
      exact hb0
    · rw [popLoop_bank1]
      exact hb1
    · rw [popLoop_gen]
      exact hgen n
    · simpa only [State.MemorySound, popLoop_pm, popLoop_dm] using hmem
  | putPm a w =>
    obtain ⟨hpw, hdw, hps, hds⟩ := hmem
    exact ⟨hb0, hb1, hgen, hempty, hact, hcells, Memory.putPm_wf _ a w hpw, hdw,
      Memory.putPm_inSpace _ a w hps, hds⟩
  | putDm a v =>
    obtain ⟨hpw, hdw, hps, hds⟩ := hmem
    exact ⟨hb0, hb1, hgen, hempty, hact, hcells, hpw, Memory.putDm_wf _ a v hdw, hps,
      Memory.putDm_inSpace _ a v hds⟩

/-- Settles O49: a step is a chain of primitive changes, and each of them keeps a sound state sound. -/
theorem stepKeepsSound : Obligations.StepKeepsSound :=
  fun _ _ hs h => (step_changes h).keeps Change.sound hs

/-! ## The wrapped bits over the primitive changes (R36) -/

/-- No primitive change clears a wrapped bit: a push or pop writes an empty bit and sets a wrapped one. -/
theorem Change.keeps_wrapped {j : Nat} (hj : j ∈ [1, 3, 5, 7]) {s t : State} (h : Change s t)
    (hs : s.sstat.getLsbD j = true) : t.sstat.getLsbD j = true := by
  have hj : j = 1 ∨ j = 3 ∨ j = 5 ∨ j = 7 := by simpa using hj
  obtain ⟨hpc, hcntr, hsts, hloop⟩ :
      j ≠ pcEmptyBit ∧ j ≠ cntrEmptyBit ∧ j ≠ stsEmptyBit ∧ j ≠ loopEmptyBit := by
    rcases hj with rfl | rfl | rfl | rfl <;> decide
  cases h with
  | pcStk k w => exact sstatAfter_keeps _ (by decide) hpc _ _ hs
  | cntrStk k w => exact sstatAfter_keeps _ (by decide) hcntr _ _ hs
  | stsStk k w => exact sstatAfter_keeps _ (by decide) hsts _ _ hs
  | pushLoop e c => exact sstatAfter_keeps _ (by decide) hloop _ _ hs
  | popLoop =>
    rw [popLoop_sstat]
    exact sstatAfter_keeps _ (by decide) hloop _ _ hs
  | bank b hb =>
    rw [State.setBank_sstat]
    exact hs
  | _ => exact hs

/-- Where the policy `refuse` refuses, in the bits of the statement. -/
theorem setsWrappedBit_eq_any (s t : State) :
    setsWrappedBit s t = [1, 3, 5, 7].any fun k => !s.sstat.getLsbD k && t.sstat.getLsbD k := by
  rw [Bool.eq_iff_iff, setsWrappedBit_iff, List.any_eq_true]
  simp only [Bool.and_eq_true, Bool.not_eq_true']

/-- Settles O52: a step is a chain of primitive changes, and none of them clears a wrapped bit. -/
theorem wrappedBitsSticky : Obligations.WrappedBitsSticky := by
  refine ⟨fun s t k hk hs h => ?_, fun s t => ⟨rfl, ?_⟩⟩
  · exact (step_changes h).keeps (p := fun s => s.sstat.getLsbD k = true) (Change.keeps_wrapped hk) hs
  · rw [← setsWrappedBit_eq_any]
    rfl

end Sys2Proof.Machine
end

section
/-! PROOFS. The memories behind the port (R50 to R68): a word read after a word write, the canonical form
with nothing hidden in it, and what an instruction can change there: WordReadAfterWrite,
CanonicalMemoryUnique, OnlyStoresChangeMemory. -/

namespace Sys2Proof.Machine

open Sys2Proof.Claims

/-! ## A word after a word write (R51, R52, R62) -/

/-- A program word is at least four bytes from every other one. -/
theorem pmByte_apart {a b : Addr} (h : b ≠ a) : pmByte b + 4 ≤ pmByte a ∨ pmByte a + 4 ≤ pmByte b := by
  have hn : b.toNat ≠ a.toNat := mt BitVec.eq_of_toNat_eq h
  unfold pmByte
  omega

/-- A data word is at least two bytes from every other one. -/
theorem dmByte_apart {a b : Addr} (h : b ≠ a) : dmByte b + 2 ≤ dmByte a ∨ dmByte a + 2 ≤ dmByte b := by
  have hn : b.toNat ≠ a.toNat := mt BitVec.eq_of_toNat_eq h
  unfold dmByte
  omega

theorem Memory.read_putPm_other {k : Nat} {a : Addr} (h0 : k ≠ pmByte a) (h1 : k ≠ pmByte a + 1)
    (h2 : k ≠ pmByte a + 2) (m : Memory) (w : OpWord) : (m.putPm a w).read k = m.read k := by
  rw [Memory.putPm, Memory.read_write_other h2, Memory.read_write_other h1, Memory.read_write_other h0]

theorem Memory.read_putDm_other {k : Nat} {a : Addr} (h0 : k ≠ dmByte a) (h1 : k ≠ dmByte a + 1)
    (m : Memory) (v : Word) : (m.putDm a v).read k = m.read k := by
  rw [Memory.putDm, Memory.read_write_other h1, Memory.read_write_other h0]

@[simp] theorem Memory.getPm_putPm_same (m : Memory) (a : Addr) (w : OpWord) : (m.putPm a w).getPm a = w := by
  simp [Memory.getPm, Memory.putPm, Memory.read_write]

@[simp] theorem Memory.getDm_putDm_same (m : Memory) (a : Addr) (v : Word) : (m.putDm a v).getDm a = v := by
  simpa [Memory.getDm, Memory.putDm, Memory.read_write] using cat_extract (v := 8) (w := 8) v

theorem Memory.getPm_putPm (m : Memory) (a b : Addr) (w : OpWord) :
    (m.putPm a w).getPm b = if b = a then w else m.getPm b := by
  split
  · next h => rw [h, Memory.getPm_putPm_same]
  · next h =>
    have hap := pmByte_apart h
    unfold Memory.getPm
    congr 1 <;> exact Memory.read_putPm_other (by omega) (by omega) (by omega) m w

theorem Memory.getDm_putDm (m : Memory) (a b : Addr) (v : Word) :
    (m.putDm a v).getDm b = if b = a then v else m.getDm b := by
  split
  · next h => rw [h, Memory.getDm_putDm_same]
  · next h =>
    have hap := dmByte_apart h
    unfold Memory.getDm
    congr 1 <;> exact Memory.read_putDm_other (by omega) (by omega) m v

theorem pmRead_pmWrite {s : State} {a : Addr} (ha : a ∉ s.pmDevices) (b : Addr) (w : OpWord) :
    pmRead (pmWrite a w s) b = if b = a then w else pmRead s b := by
  by_cases hb : b ∈ s.pmDevices
  · have hne : b ≠ a := fun h => ha (h ▸ hb)
    simp [pmRead, pmWrite, ha, hb, hne]
  · simp [pmRead, pmWrite, ha, hb, Memory.getPm_putPm]

theorem dmRead_dmWrite {s : State} {a : Addr} (ha : a ∉ s.dmDevices) (b : Addr) (v : Word) :
    dmRead (dmWrite a v s) b = if b = a then v else dmRead s b := by
  by_cases hb : b ∈ s.dmDevices
  · have hne : b ≠ a := fun h => ha (h ▸ hb)
    simp [dmRead, dmWrite, ha, hb, hne]
  · simp [dmRead, dmWrite, ha, hb, Memory.getDm_putDm]

theorem dmRead_pmWrite {s : State} {a : Addr} (ha : a ∉ s.pmDevices) (b : Addr) (w : OpWord) :
    dmRead (pmWrite a w s) b = dmRead s b :=
  dmRead_congr (by simp) (by simp) (by simp [pmWrite, ha]) b

theorem pmRead_dmWrite {s : State} {a : Addr} (ha : a ∉ s.dmDevices) (b : Addr) (v : Word) :
    pmRead (dmWrite a v s) b = pmRead s b :=
  pmRead_congr (by simp) (by simp) (by simp [dmWrite, ha]) b

/-- Settles O56: where memory is, a word read after a word write; where a device is, the one case of each
access that records it. -/
theorem wordReadAfterWrite : Obligations.WordReadAfterWrite := by
  intro s a b w v
  refine ⟨fun h => ⟨pmRead_pmWrite h b w, dmRead_pmWrite h b w, if_neg h⟩,
    fun h => ⟨dmRead_dmWrite h b v, pmRead_dmWrite h b v, if_neg h⟩,
    fun h => ⟨if_pos h, if_pos h, if_pos h⟩, fun h => ⟨if_pos h, ?_, if_pos h⟩⟩
  rw [← BitVec.setWidth_eq_extractLsb' (by decide)]
  exact if_pos h

/-! ## The canonical form holds nothing but what is read (log 1) -/

theorem Memory.wfFrom_cons {lo : Option Nat} {a : Nat} {v : Byte} {m : Memory} :
    Memory.wfFrom lo ((a, v) :: m) = true ↔
      (∀ x ∈ lo, x < a) ∧ v ≠ unlisted ∧ Memory.wfFrom (some a) m = true := by
  cases lo <;> simp [Memory.wfFrom, and_assoc]

/-- Nothing is listed up to the bound the cells rise from. -/
theorem Memory.read_of_le_bound {m : Memory} {lo a : Nat} (h : Memory.wfFrom (some lo) m = true)
    (ha : a ≤ lo) : m.read a = unlisted := by
  induction m generalizing lo with
  | nil => rfl
  | cons c m ih =>
    obtain ⟨b, v⟩ := c
    obtain ⟨hlo, -, hm⟩ := Memory.wfFrom_cons.mp h
    have hb : lo < b := hlo lo rfl
    rw [Memory.read, if_neg (by omega)]
    exact ih hm (by omega)

/-- A memory that reads at `a` what a first cell at `a` holds has its own first cell no higher than `a`. -/
theorem Memory.head_le_of_read_eq {lo lo' : Option Nat} {a b : Nat} {v u : Byte} {m m' : Memory}
    (h : Memory.wfFrom lo ((a, v) :: m) = true) (h' : Memory.wfFrom lo' ((b, u) :: m') = true)
    (hr : Memory.read ((a, v) :: m) a = Memory.read ((b, u) :: m') a) : b ≤ a := by
  obtain ⟨-, hv, -⟩ := Memory.wfFrom_cons.mp h
  obtain ⟨-, -, hm'⟩ := Memory.wfFrom_cons.mp h'
  by_contra hlt
  rw [Memory.read, if_pos rfl, Memory.read, if_neg (by omega),
    Memory.read_of_le_bound hm' (by omega)] at hr
  exact hv hr

/-- A listed cell can be told from an empty memory, since it does not hold what an unlisted address reads as. -/
theorem Memory.read_cons_ne_nil {lo : Option Nat} {a : Nat} {v : Byte} {m : Memory}
    (h : Memory.wfFrom lo ((a, v) :: m) = true) : Memory.read ((a, v) :: m) a ≠ Memory.read [] a := by
  obtain ⟨-, hv, -⟩ := Memory.wfFrom_cons.mp h
  simpa [Memory.read] using hv

theorem Memory.eq_of_read_eq {m m' : Memory} {lo lo' : Option Nat} (h : Memory.wfFrom lo m = true)
    (h' : Memory.wfFrom lo' m' = true) (hr : ∀ a, m.read a = m'.read a) : m = m' := by
  induction m generalizing m' lo lo' with
  | nil =>
    cases m' with
    | nil => rfl
    | cons c' m' => exact absurd (hr c'.1).symm (Memory.read_cons_ne_nil h')
  | cons c m ih =>
    cases m' with
    | nil => exact absurd (hr c.1) (Memory.read_cons_ne_nil h)
    | cons c' m' =>
      obtain ⟨a, v⟩ := c
      obtain ⟨b, u⟩ := c'
      have hab : a = b := Nat.le_antisymm (Memory.head_le_of_read_eq h' h (hr b).symm)
        (Memory.head_le_of_read_eq h h' (hr a))
      subst hab
      obtain ⟨-, -, hm⟩ := Memory.wfFrom_cons.mp h
      obtain ⟨-, -, hm'⟩ := Memory.wfFrom_cons.mp h'
      have hvu : v = u := by simpa [Memory.read] using hr a
      have htail : ∀ x, Memory.read m x = Memory.read m' x := fun x => by
        by_cases hx : x = a
        · rw [Memory.read_of_le_bound hm (Nat.le_of_eq hx), Memory.read_of_le_bound hm' (Nat.le_of_eq hx)]
        · simpa [Memory.read, hx] using hr x
      rw [hvu, ih hm hm' htail]

theorem Memory.write_read_self {m : Memory} (h : m.wf = true) (a : Nat) : m.write a (m.read a) = m := by
  refine Memory.eq_of_read_eq (Memory.write_wf m a _ h) h fun b => ?_
  rw [Memory.read_write]
  split
  · next hb => rw [hb]
  · rfl

/-- Settles O57: equal reads make the lists equal cell by cell, and a byte written back reads as before. -/
theorem canonicalMemoryUnique : Obligations.CanonicalMemoryUnique :=
  ⟨fun _ _ h h' hr => Memory.eq_of_read_eq h h' hr, fun _ a h => Memory.write_read_self h a⟩

/-! ## What an instruction changes behind the port (R55, R58, R68) -/

/-- Everything behind the port: both memories, where devices are, and what the host has seen. -/
def State.port (s : State) : Memory × Memory × List Addr × List Addr × List PortEvent :=
  (s.pm, s.dm, s.pmDevices, s.dmDevices, s.events)

theorem State.port_eq_iff {s t : State} : t.port = s.port ↔
    t.pm = s.pm ∧ t.dm = s.dm ∧ t.pmDevices = s.pmDevices ∧ t.dmDevices = s.dmDevices ∧
      t.events = s.events := by
  simp [State.port]

theorem setBank_port (b : Bank) (s : State) : (s.setBank b).port = s.port := by
  simp [State.port]

@[simp] theorem wrDreg_port (d : Dreg) (v : Word) (s : State) : (wrDreg d v s).port = s.port :=
  setBank_port _ s

@[simp] theorem modify_port (n m : Fin 8) (s : State) : (modify n m s).port = s.port := rfl

@[simp] theorem setPx_port (v : Byte) (s : State) : (s.setPx v).port = s.port := rfl

@[simp] theorem compute_port (f : Amf) (z : Bool) (y : Yop) (x : Xop) (s : State) :
    (compute f z y x s).port = s.port := by
  simp [State.port]

@[simp] theorem shiftOp_port (f : ShiftFn) (x : Xop) (c : Int) (s : State) :
    (shiftOp f x c s).port = s.port := by
  simp [State.port]

@[simp] theorem divShift_port (r : Word) (q a : Bool) (s : State) : (divShift r q a s).port = s.port := by
  simp [State.port]

@[simp] theorem evalCond_port (c : Cond) (s : State) : (evalCond c s).2.port = s.port := by
  simp [State.port]

@[simp] theorem popLoop_port (s : State) : (popLoop s).port = s.port := by
  simp [State.port]

theorem popCntr_port (s : State) : (popCntr s).port = s.port := rfl

theorem pushSts_port (s : State) : (pushSts s).port = s.port := rfl

theorem popSts_port (s : State) : (popSts s).port = s.port := rfl

theorem wrDag_port (upper : Bool) (r : BitVec 4) (v : Word) (s : State) :
    (wrDag upper r v s).port = s.port := by
  rcases wrDag_cases s upper r v with e | e | e | e <;> rw [e] <;> rfl

theorem wrCtl_port (r : BitVec 4) (v : Word) (s : State) : (wrCtl r v s).port = s.port := by
  rcases wrCtl_cases s r v with e | e | e | e | e | e | e | e <;> simp [e, State.port]

@[simp] theorem wrReg_port (g : RegGroup) (r : BitVec 4) (v : Word) (s : State) :
    (wrReg g r v s).port = s.port := by
  cases g with
  | data => exact wrDreg_port _ v s
  | dag1 => exact wrDag_port false r v s
  | dag2 => exact wrDag_port true r v s
  | ctl => exact wrCtl_port r v s

theorem ite_port {p : Prop} [Decidable p] {s t u : State} (ht : t.port = s.port) (hu : u.port = s.port) :
    (if p then t else u).port = s.port := by
  split
  · exact ht
  · exact hu

/-- The four parts of `STK`, in order (R250). -/
theorem execStk_port (p l c : Bool) (sts : BitVec 2) (s : State) :
    ∃ t, execStk p l c sts s = .next t ∧ t.port = s.port := by
  have h1 : (if p then popPc s else s).port = s.port := ite_port rfl rfl
  have h2 := ite_port (p := l = true) ((popLoop_port _).trans h1) h1
  have h3 := ite_port (p := c = true) ((popCntr_port _).trans h2) h2
  exact ⟨_, rfl, ite_port (ite_port ((popSts_port _).trans h3) ((pushSts_port _).trans h3)) h3⟩

theorem guarded_port {k : State → State} (hk : Guarded k) (s : State) : (k s).port = s.port := by
  cases hk with
  | compute f z y x => exact compute_port f z y x s
  | shift f x => exact shiftOp_port f x _ s
  | jump | call | jumpInd | callInd | rts | rti => rfl

theorem condDo_port (c : Cond) {k : State → State} (hk : Guarded k) (s : State) :
    ∃ t, condDo c k s = .next t ∧ t.port = s.port :=
  ⟨_, rfl, ite_port ((guarded_port hk _).trans (evalCond_port c s)) (evalCond_port c s)⟩

theorem condCompute_port (f : Amf) (z : Bool) (y : Yop) (x : Xop) (c : Cond) (s : State) :
    ∃ t, condCompute f z y x c s = .next t ∧ t.port = s.port := condDo_port c (.compute f z y x) s

theorem condShift_port (f : ShiftFn) (x : Xop) (c : Cond) (s : State) :
    ∃ t, condShift f x c s = .next t ∧ t.port = s.port := condDo_port c (.shift f x) s

/-- An access to memory or to a device: the instruction reads or writes one of the two spaces (R55). -/
def accesses (i : Instr) : Prop :=
  writesPm i = true ∨ writesDm i = true ∨ readsPm i = true ∨ readsDm i = true

/-- What instruction `i`, begun in `s`, may have changed behind the port when it has come to `t`. -/
structure PortFrame (i : Instr) (s t : State) : Prop where
  pm : writesPm i = false → t.pm = s.pm
  dm : writesDm i = false → t.dm = s.dm
  pmDevices : t.pmDevices = s.pmDevices
  dmDevices : t.dmDevices = s.dmDevices
  grows : s.events <:+ t.events
  quiet : ¬ accesses i → t.events = s.events
  unmapped : s.pmDevices = [] → s.dmDevices = [] → t.events = s.events

namespace PortFrame

variable {i : Instr} {s t u : State}

theorem refl (i : Instr) (s : State) : PortFrame i s s :=
  ⟨fun _ => rfl, fun _ => rfl, rfl, rfl, List.suffix_rfl, fun _ => rfl, fun _ _ => rfl⟩

theorem keep (h : PortFrame i s t) (hp : u.port = t.port) : PortFrame i s u := by
  obtain ⟨hpm, hdm, hpd, hdd, hev⟩ := State.port_eq_iff.mp hp
  exact ⟨fun hi => hpm.trans (h.pm hi), fun hi => hdm.trans (h.dm hi), hpd.trans h.pmDevices,
    hdd.trans h.dmDevices, hev ▸ h.grows, fun hi => hev.trans (h.quiet hi),
    fun hp hd => hev.trans (h.unmapped hp hd)⟩

theorem setPm (h : PortFrame i s t) (hi : writesPm i = true) (m : Memory) : PortFrame i s (t.setPm m) :=
  { h with pm := fun hn => absurd (hi.symm.trans hn) (by decide) }

theorem setDm (h : PortFrame i s t) (hi : writesDm i = true) (m : Memory) : PortFrame i s (t.setDm m) :=
  { h with dm := fun hn => absurd (hi.symm.trans hn) (by decide) }

/-- An event where a device is mapped, in an instruction that accesses memory. -/
theorem record (h : PortFrame i s t) (hi : accesses i) (hd : t.pmDevices ≠ [] ∨ t.dmDevices ≠ [])
    (e : PortEvent) : PortFrame i s (t.record e) :=
  { h with
    grows := h.grows.trans (List.suffix_cons e t.events)
    quiet := fun hn => absurd hi hn
    unmapped := fun hp hq => absurd hd (by simp [h.pmDevices, h.dmDevices, hp, hq]) }

theorem afterPmRead (h : PortFrame i s t) (hi : readsPm i = true) (a : Addr) :
    PortFrame i s (afterPmRead a t) := by
  rcases pmRead_cases t a with ⟨_, _, e⟩ | ⟨ha, _, e⟩ <;> rw [e]
  · exact h
  · exact h.record (.inr (.inr (.inl hi))) (.inl (List.ne_nil_of_mem ha)) _

theorem afterDmRead (h : PortFrame i s t) (hi : readsDm i = true) (a : Addr) :
    PortFrame i s (afterDmRead a t) := by
  rcases dmRead_cases t a with ⟨_, _, e⟩ | ⟨ha, _, e⟩ <;> rw [e]
  · exact h
  · exact h.record (.inr (.inr (.inr hi))) (.inr (List.ne_nil_of_mem ha)) _

theorem pmWrite (h : PortFrame i s t) (hi : writesPm i = true) (a : Addr) (w : OpWord) :
    PortFrame i s (pmWrite a w t) := by
  rcases pmWrite_cases t a w with ⟨_, e⟩ | ⟨ha, e⟩ <;> rw [e]
  · exact h.setPm hi _
  · exact h.record (.inl hi) (.inl (List.ne_nil_of_mem ha)) _

theorem dmWrite (h : PortFrame i s t) (hi : writesDm i = true) (a : Addr) (v : Word) :
    PortFrame i s (dmWrite a v t) := by
  rcases dmWrite_cases t a v with ⟨_, e⟩ | ⟨ha, e⟩ <;> rw [e]
  · exact h.setDm hi _
  · exact h.record (.inr (.inl hi)) (.inr (List.ne_nil_of_mem ha)) _

theorem of_port {r : Result} (h : ∃ t, r = .next t ∧ t.port = s.port) :
    ∃ t, r = .next t ∧ PortFrame i s t := by
  obtain ⟨t, ht, hp⟩ := h
  exact ⟨t, ht, (refl i s).keep hp⟩

end PortFrame

/-- Every instruction answers a next state within its frame: first those that reach a memory, then those that
do not; the last case is the computations under a condition. -/
theorem exec_portFrame (i : Instr) (s : State) : ∃ t, exec i s = .next t ∧ PortFrame i s t := by
  have h := PortFrame.refl i s
  cases i with
  | computePmRead f z y x d n m =>
    have hc := h.keep (compute_port f z y x s)
    exact ⟨_, rfl, (hc.afterPmRead rfl (ea s n)).keep (by simp)⟩
  | shiftPmRead f x d n m =>
    have hc := h.keep (shiftOp_port f x (seCode s) s)
    exact ⟨_, rfl, (hc.afterPmRead rfl (ea s n)).keep (by simp)⟩
  | computeDmRead f z y x d n m =>
    have hc := h.keep (compute_port f z y x s)
    exact ⟨_, rfl, (hc.afterDmRead rfl (ea s n)).keep (by simp)⟩
  | shiftDmRead f x d n m =>
    have hc := h.keep (shiftOp_port f x (seCode s) s)
    exact ⟨_, rfl, (hc.afterDmRead rfl (ea s n)).keep (by simp)⟩
  | computeDual f y x dx dn dm dy pn pm =>
    have hc := h.keep (compute_port f false y x s)
    exact ⟨_, rfl, ((hc.afterDmRead rfl (ea s dn)).afterPmRead rfl (ea s pn)).keep (by simp)⟩
  | loadDirect g a r => exact ⟨_, rfl, (h.afterDmRead rfl a).keep (wrReg_port g r _ _)⟩
  | computePmWrite f z y x d n m =>
    have hc := h.keep (compute_port f z y x s)
    exact ⟨_, rfl, (hc.pmWrite rfl (ea s n) _).keep (modify_port n m _)⟩
  | shiftPmWrite f x d n m =>
    have hc := h.keep (shiftOp_port f x (seCode s) s)
    exact ⟨_, rfl, (hc.pmWrite rfl (ea s n) _).keep (modify_port n m _)⟩
  | computeDmWrite f z y x d n m =>
    have hc := h.keep (compute_port f z y x s)
    exact ⟨_, rfl, (hc.dmWrite rfl (ea s n) _).keep (modify_port n m _)⟩
  | shiftDmWrite f x d n m =>
    have hc := h.keep (shiftOp_port f x (seCode s) s)
    exact ⟨_, rfl, (hc.dmWrite rfl (ea s n) _).keep (modify_port n m _)⟩
  | storeDirect g a r => exact ⟨_, rfl, h.dmWrite rfl a _⟩
  | storeImm v n m => exact ⟨_, rfl, (h.dmWrite rfl (ea s n) v).keep (modify_port n m _)⟩
  | nop | reserved01 | reserved02 | reserved03 | reserved08 | reservedShi => exact ⟨_, rfl, h⟩
  | idle | modify | mode | doUntil => exact ⟨_, rfl, h.keep rfl⟩
  | stk p l c sts => exact PortFrame.of_port (execStk_port p l c sts s)
  | satMr => exact ⟨_, rfl, h.keep (ite_port (setBank_port _ s) rfl)⟩
  | divs | divq => exact ⟨_, rfl, h.keep (divShift_port _ _ _ s)⟩
  | lshiftHiBy | lshiftHiOrBy | lshiftLoBy | lshiftLoOrBy
  | ashiftHiBy | ashiftHiOrBy | ashiftLoBy | ashiftLoOrBy =>
    exact ⟨_, rfl, h.keep (shiftOp_port _ _ _ s)⟩
  | computeMove f z y x d sd => exact ⟨_, rfl, h.keep (by simp)⟩
  | shiftMove f x d sd => exact ⟨_, rfl, h.keep (by simp)⟩
  | move dg di => exact ⟨_, rfl, h.keep (wrReg_port dg di _ s)⟩
  | loadImm14 g v r => exact ⟨_, rfl, h.keep (wrReg_port g r _ s)⟩
  | loadImm16 v d => exact ⟨_, rfl, h.keep (wrDreg_port d v s)⟩
  | jump a c => exact PortFrame.of_port (condDo_port c (.jump a) s)
  | call a c => exact PortFrame.of_port (condDo_port c (.call a) s)
  | jumpInd n c => exact PortFrame.of_port (condDo_port c (.jumpInd n) s)
  | callInd n c => exact PortFrame.of_port (condDo_port c (.callInd n) s)
  | rts c => exact PortFrame.of_port (condDo_port c .rts s)
  | rti c => exact PortFrame.of_port (condDo_port c .rti s)
  | lshiftHi x c | lshiftHiOr x c | lshiftLo x c | lshiftLoOr x c
  | ashiftHi x c | ashiftHiOr x c | ashiftLo x c | ashiftLoOr x c
  | normHi x c | normHiOr x c | normLo x c | normLoOr x c
  | expHi x c | expHix x c | expLo x c | expAdj x c => exact PortFrame.of_port (condShift_port _ x c s)
  | _ => exact PortFrame.of_port (condCompute_port _ _ _ _ _ s)

/-- Settles O55: the frame of every instruction, read field by field. -/
theorem onlyStoresChangeMemory : Obligations.OnlyStoresChangeMemory := by
  intro i s t he
  obtain ⟨t', ht, hf⟩ := exec_portFrame i s
  cases he.symm.trans ht
  refine ⟨hf.pm, hf.dm, hf.pmDevices, hf.dmDevices, hf.grows, fun hwp hwd hrp hrd => hf.quiet ?_, hf.unmapped⟩
  simp [accesses, hwp, hwd, hrp, hrd]

end Sys2Proof.Machine
end

section
/-! PROOFS. The fields of an instruction word: a word is the concatenation of its fields, and the classes of
the opcode map (R86) are ranges of the primary opcode. -/

namespace Sys2Proof

open Sys2Proof.Claims

theorem opField_all (w : OpWord) : opField w 0 24 = w := BitVec.extractLsb'_eq_self

/-- Two fields that meet are one field. -/
theorem cat_opField (w : OpWord) {hi lo a b : Nat} (h : hi = lo + b) :
    cat (opField w hi a) (opField w lo b) = opField w lo (a + b) := by
  subst h
  apply BitVec.eq_of_getLsbD_eq
  intro i hi
  by_cases hb : i < b
  · simp [opField, hb, hi]
  · have hk : lo + b + (i - b) = lo + i := by omega
    have ha : i - b < a := by omega
    simp [opField, hb, hi, hk, ha]

theorem ofBool_getElem (w : OpWord) (k : Nat) (h : k < 24) : BitVec.ofBool w[k] = opField w k 1 := by
  apply BitVec.eq_of_getLsbD_eq
  intro i hi
  obtain rfl : i = 0 := by omega
  simp [opField, h]

/-- The primary opcode `op[23:16]`, as a number (R86). -/
def primary (w : OpWord) : Nat := (opField w 16 8).toNat

/-- A field at the top of the word is a part of the primary opcode. -/
theorem opField_toNat_of_top {lo len : Nat} (w : OpWord) (h16 : 16 ≤ lo) (h24 : lo + len = 24) :
    (opField w lo len).toNat = primary w / 2 ^ (lo - 16) := by
  have hw : w.toNat / 2 ^ 16 < 256 := by have := w.isLt; omega
  have hlt : w.toNat / 2 ^ lo < 2 ^ len := by
    rw [Nat.div_lt_iff_lt_mul (by positivity), ← pow_add, Nat.add_comm, h24]
    exact w.isLt
  have hlo : 16 + (lo - 16) = lo := by omega
  calc (opField w lo len).toNat
    _ = w.toNat / 2 ^ lo := by
      rw [opField, BitVec.extractLsb'_toNat, Nat.shiftRight_eq_div_pow, Nat.mod_eq_of_lt hlt]
    _ = w.toNat / 2 ^ 16 / 2 ^ (lo - 16) := by rw [Nat.div_div_eq_div_mul, ← pow_add, hlo]
    _ = primary w / 2 ^ (lo - 16) := by
      rw [primary, opField, BitVec.extractLsb'_toNat, Nat.shiftRight_eq_div_pow, Nat.mod_eq_of_lt hw]

theorem opField_eq_iff {lo len : Nat} {w : OpWord} {b : BitVec len} (h16 : 16 ≤ lo) (h24 : lo + len = 24) :
    opField w lo len = b ↔ primary w / 2 ^ (lo - 16) = b.toNat := by
  rw [← BitVec.toNat_inj, opField_toNat_of_top w h16 h24]

/-! The named bits of a word (R74), as a function of the primary opcode -/

theorem namedBits_primary (w : OpWord) : namedBits w = namedBits (cat (opField w 16 8) 0#16) := by
  simp only [namedBits, opField, extract_cat_hi _ _ (Nat.le_refl 16), Nat.sub_self, BitVec.extractLsb'_eq_self]

/-- The opcode is never ignored. -/
theorem opField_namedBits (w : OpWord) : opField (namedBits w) 16 8 = BitVec.allOnes 8 := by
  unfold namedBits
  dsimp only
  split_ifs <;> rfl

theorem namedBits_full {w : OpWord} (h1 : 0x11 ≤ primary w) (h2 : primary w < 0x20 ∨ 0x28 ≤ primary w) :
    namedBits w = BitVec.allOnes 24 := by
  unfold primary opField at h1 h2
  unfold namedBits
  dsimp only
  iterate 11 rw [if_neg (by omega)]
  rfl

theorem namedBits_cc {w : OpWord} (h1 : 0x20 ≤ primary w) (h2 : primary w < 0x28) :
    namedBits w = 0xFFFF0F := by
  unfold primary opField at h1 h2
  unfold namedBits
  dsimp only
  iterate 10 rw [if_neg (by omega)]
  rw [if_pos ⟨h1, by omega⟩]

/-- A word that agrees with `w` on the named bits of `w` has the same named bits. -/
theorem namedBits_eq_of_agree {v w : OpWord} (h : v &&& namedBits w = w &&& namedBits w) :
    namedBits v = namedBits w := by
  have hand (x : OpWord) : opField (x &&& namedBits w) 16 8 = opField x 16 8 := by
    rw [opField, BitVec.extractLsb'_and]
    exact (congrArg (opField x 16 8 &&& ·) (opField_namedBits w)).trans BitVec.and_allOnes
  have hp : opField v 16 8 = opField w 16 8 := by rw [← hand v, h, hand]
  rw [namedBits_primary v, hp, ← namedBits_primary]

/-! A word under each mask of named bits, field by field -/

open Laws (eq_of_bits)

theorem and_FF0000 (w : OpWord) : w &&& 0xFF0000 = cat (opField w 16 8) 0#16 := by
  refine eq_of_bits fun k => ?_
  fin_cases k <;> simp [-BitVec.getLsbD_eq_getElem, opField]

theorem and_FF8000 (w : OpWord) : w &&& 0xFF8000 = cat (opField w 16 8) (cat (opField w 15 1) 0#15) := by
  refine eq_of_bits fun k => ?_
  fin_cases k <;> simp [-BitVec.getLsbD_eq_getElem, opField]

theorem and_FF001F (w : OpWord) :
    w &&& 0xFF001F = cat (opField w 16 8) (cat 0#11 (cat (opField w 4 1) (opField w 0 4))) := by
  refine eq_of_bits fun k => ?_
  fin_cases k <;> simp [-BitVec.getLsbD_eq_getElem, opField]

theorem and_FF1F00 (w : OpWord) :
    w &&& 0xFF1F00 = cat (opField w 16 8) (cat 0#3 (cat (opField w 11 2) (cat (opField w 8 3) 0#8))) := by
  refine eq_of_bits fun k => ?_
  fin_cases k <;> simp [-BitVec.getLsbD_eq_getElem, opField]

theorem and_FF0700 (w : OpWord) :
    w &&& 0xFF0700 = cat (opField w 16 8) (cat 0#5 (cat (opField w 8 3) 0#8)) := by
  refine eq_of_bits fun k => ?_
  fin_cases k <;> simp [-BitVec.getLsbD_eq_getElem, opField]

theorem and_FF00DF (w : OpWord) : w &&& 0xFF00DF =
    cat (opField w 16 8) (cat 0#8 (cat (opField w 6 2) (cat 0#1 (cat (opField w 4 1) (opField w 0 4))))) := by
  refine eq_of_bits fun k => ?_
  fin_cases k <;> simp [-BitVec.getLsbD_eq_getElem, opField]

theorem and_FF0FF0 (w : OpWord) : w &&& 0xFF0FF0 = cat (opField w 16 8) (cat 0#4
    (cat (opField w 10 2) (cat (opField w 8 2) (cat (opField w 6 2) (cat (opField w 4 2) 0#4))))) := by
  refine eq_of_bits fun k => ?_
  fin_cases k <;> simp [-BitVec.getLsbD_eq_getElem, opField]

theorem and_FF0FFF (w : OpWord) : w &&& 0xFF0FFF = cat (opField w 16 8) (cat 0#4 (opField w 0 12)) := by
  refine eq_of_bits fun k => ?_
  fin_cases k <;> simp [-BitVec.getLsbD_eq_getElem, opField]

theorem and_FF7F0F (w : OpWord) : w &&& 0xFF7F0F =
    cat (opField w 16 8) (cat 0#1 (cat (opField w 11 4) (cat (opField w 8 3) (cat 0#4 (opField w 0 4))))) := by
  refine eq_of_bits fun k => ?_
  fin_cases k <;> simp [-BitVec.getLsbD_eq_getElem, opField]

theorem and_FF7FFF (w : OpWord) : w &&& 0xFF7FFF = cat (opField w 16 8) (cat 0#1 (opField w 0 15)) := by
  refine eq_of_bits fun k => ?_
  fin_cases k <;> simp [-BitVec.getLsbD_eq_getElem, opField]

theorem and_FFFF0F (w : OpWord) : w &&& 0xFFFF0F = cat (opField w 19 5) (cat (opField w 18 1)
    (cat (opField w 13 5) (cat (opField w 11 2) (cat (opField w 8 3) (cat 0#4 (opField w 0 4)))))) := by
  refine eq_of_bits fun k => ?_
  fin_cases k <;> simp [-BitVec.getLsbD_eq_getElem, opField]

/-! The classes with one constructor per function -/

theorem encode_ccInstr (f : Amf) (z : Bool) (y : Yop) (x : Xop) (c : Cond) :
    encode (ccInstr f z y x c) = encodeCc f z y x c := by
  cases f with
  | mac f => cases f <;> rfl
  | alu f => cases f <;> rfl

theorem tableMask_ccInstr (f : Amf) (z : Bool) (y : Yop) (x : Xop) (c : Cond) :
    tableMask (ccInstr f z y x c) = 0xFBE000 := by
  cases f with
  | mac f => cases f <;> rfl
  | alu f => cases f <;> rfl

theorem wellFormed_ccInstr (f : Amf) (z : Bool) (y : Yop) (x : Xop) (c : Cond) :
    (ccInstr f z y x c).WellFormed := by
  cases f with
  | mac f => cases f <;> rfl
  | alu f => cases f <;> rfl

theorem encode_shcInstr (f : ShiftFn) (x : Xop) (c : Cond) : encode (shcInstr f x c) = encodeShc f x c := by
  cases f <;> rfl

theorem tableMask_shcInstr (f : ShiftFn) (x : Xop) (c : Cond) : tableMask (shcInstr f x c) = 0xFF7800 := by
  cases f <;> rfl

theorem wellFormed_shcInstr (f : ShiftFn) (x : Xop) (c : Cond) : (shcInstr f x c).WellFormed := by
  cases f <;> rfl

theorem encode_shiInstr (sf : BitVec 4) (x : Xop) (e : BitVec 8) :
    encode (shiInstr sf x e) = encodeShi sf x e := by
  obtain ⟨sf⟩ := sf
  fin_cases sf <;> rfl

theorem tableMask_shiInstr (sf : BitVec 4) (x : Xop) (e : BitVec 8) :
    tableMask (shiInstr sf x e) = if sf.getLsbD 3 then 0xFF4000 else 0xFF7800 := by
  obtain ⟨sf⟩ := sf
  fin_cases sf <;> rfl

theorem wellFormed_shiInstr (sf : BitVec 4) (x : Xop) (e : BitVec 8) : (shiInstr sf x e).WellFormed := by
  obtain ⟨sf⟩ := sf
  fin_cases sf <;> rfl

/-- `SF[3]` = 1 is reserved in the format `SHI` (R87). -/
theorem shiInstr_reserved {sf : BitVec 4} (h : sf.getLsbD 3 = true) (x : Xop) (e : BitVec 8) :
    shiInstr sf x e = .reservedShi (sf.extractLsb' 0 3) x e := by
  have h8 : 8 ≤ sf.toNat := by revert sf; decide
  unfold shiInstr
  split
  case h_9 => rfl
  all_goals omega

end Sys2Proof
end

section
/-! PROOFS. The decoder reads back every encoding: DecodeEncode. -/

namespace Sys2Proof

theorem decodeWord_encodeCc (f : Amf) (z : Bool) (y : Yop) (x : Xop) (c : Cond) :
    decodeWord (encodeCc f z y x c) = ccInstr f z y x c := by
  simp [-BitVec.getLsbD_eq_getElem, decodeWord, encodeCc, opField]

theorem decodeWord_encodeShc (f : ShiftFn) (x : Xop) (c : Cond) :
    decodeWord (encodeShc f x c) = shcInstr f x c := by
  simp [decodeWord, decodeLow, encodeShc, opField]

theorem decodeWord_encodeShi (sf : BitVec 4) (x : Xop) (e : BitVec 8) :
    decodeWord (encodeShi sf x e) = shiInstr sf x e := by
  simp [decodeWord, decodeLow, encodeShi, opField]

/-- The primary opcodes 0x60 to 0x7F of `CDM` are not those of `DIR`, whatever `G` and `D` are. -/
theorem cdm_ne_dir (g d : BitVec 1) :
    (cat 0b011#3 (cat g d)).extractLsb' 1 4 ≠ 0b1001#4 ∧
      (cat 0b011#3 (cat g d)).extractLsb' 1 4 ≠ 0b1000#4 := by
  revert g d
  decide

/-- The numbers of a program-memory access both name DAG2 (R78). -/
theorem genOf_inDag2_pair {n m : Fin 8} (h : (inDag2 n && inDag2 m) = true) :
    genOf 1#1 (indexField n) = n ∧ genOf 1#1 (indexField m) = m := by
  obtain ⟨hn, hm⟩ := Bool.and_eq_true_iff.mp h
  exact ⟨genOf_inDag2 hn, genOf_inDag2 hm⟩

/-- Each format is read back: the tests of the decoder meet the constant at the top of the word, the fields
come back as they were put in, and a number of a generator comes back when its group is the one the format
gives it. -/
theorem decodeWord_encode {i : Instr} (hi : i.WellFormed) : decodeWord (encode i) = i := by
  cases i with
  | nop | reserved01 | reserved02 | idle | reserved03 | satMr | reserved08 => rfl
  | stk | divs | divq | rts | rti | mode | move | shiftMove =>
    simp [-BitVec.getLsbD_eq_getElem, decodeWord, decodeLow, encode, encodeShift, opField]
  | doUntil | jump | call | computeMove | loadImm14 | loadImm16 | loadDirect | storeDirect =>
    simp [-BitVec.getLsbD_eq_getElem, decodeWord, encode, encodeCompute, opField]
  | modify n m => simp [decodeWord, decodeLow, encode, encodeIM, opField, genOf_sameGroup hi]
  | jumpInd n c | callInd n c => simp [decodeWord, decodeLow, encode, opField, genOf_inDag2 hi]
  | shiftPmRead f x d n m | shiftPmWrite f x d n m =>
    simp [decodeWord, decodeLow, encode, encodeShift, encodeIM, opField, genOf_inDag2_pair hi]
  | shiftDmRead f x d n m | shiftDmWrite f x d n m =>
    simp [decodeWord, encode, encodeShift, encodeIM, opField, genOf_sameGroup hi]
  | computePmRead f z y x d n m | computePmWrite f z y x d n m =>
    simp [-BitVec.getLsbD_eq_getElem, decodeWord, encode, encodeCompute, encodeIM, opField, genOf_inDag2_pair hi]
  | computeDmRead f z y x d n m | computeDmWrite f z y x d n m =>
    simp [-BitVec.getLsbD_eq_getElem, decodeWord, encode, encodeCompute, encodeIM, opField, cdm_ne_dir,
      genOf_sameGroup hi]
  | storeImm v n m => simp [decodeWord, encode, encodeIM, opField, genOf_sameGroup hi]
  | computeDual f y x dx dn dm dy pn pm =>
    simp only [Instr.WellFormed, Instr.wellFormed, Bool.and_eq_true] at hi
    obtain ⟨⟨⟨hdn, hdm⟩, hpn⟩, hpm⟩ := hi
    simp [decodeWord, encode, encodeIM, opField, genOf_inDag1 hdn, genOf_inDag1 hdm, genOf_inDag2 hpn,
      genOf_inDag2 hpm]
  | lshiftHi x c | lshiftHiOr x c | lshiftLo x c | lshiftLoOr x c
  | ashiftHi x c | ashiftHiOr x c | ashiftLo x c | ashiftLoOr x c
  | normHi x c | normHiOr x c | normLo x c | normLoOr x c
  | expHi x c | expHix x c | expLo x c | expAdj x c => exact decodeWord_encodeShc _ x c
  | lshiftHiBy x e | lshiftHiOrBy x e | lshiftLoBy x e | lshiftLoOrBy x e
  | ashiftHiBy x e | ashiftHiOrBy x e | ashiftLoBy x e | ashiftLoOrBy x e => exact decodeWord_encodeShi _ x e
  | reservedShi sf x e =>
    exact (decodeWord_encodeShi _ x e).trans ((shiInstr_reserved (by simp) x e).trans (by simp))
  | ccNop z y x c | ccMulRnd z y x c | ccAddRnd z y x c | ccSubRnd z y x c
  | ccMulSS z y x c | ccMulSU z y x c | ccMulUS z y x c | ccMulUU z y x c
  | ccAddSS z y x c | ccAddSU z y x c | ccAddUS z y x c | ccAddUU z y x c
  | ccSubSS z y x c | ccSubSU z y x c | ccSubUS z y x c | ccSubUU z y x c
  | ccPassY z y x c | ccIncY z y x c | ccAddC z y x c | ccAdd z y x c
  | ccNotY z y x c | ccNegY z y x c | ccSubC z y x c | ccSub z y x c
  | ccDecY z y x c | ccRsub z y x c | ccRsubC z y x c | ccNotX z y x c
  | ccAndXY z y x c | ccOrXY z y x c | ccXorXY z y x c | ccAbsX z y x c => exact decodeWord_encodeCc _ z y x c

/-- Settles O1: the word by format, its bytes by the layout they are read with. -/
theorem decodeEncode : Obligations.DecodeEncode := by
  intro i hi
  have hb := decodeBytes_wordBytes (encode i) []
  rw [List.append_nil, decodeWord_encode hi] at hb
  exact ⟨decodeWord_encode hi, hb⟩

end Sys2Proof
end

section
/-! PROOFS. The encoder gives back the named bits of every word, and every word is of one row of the opcode
table: IgnoredBitsDropped, DecodingFollowsTable. -/

namespace Sys2Proof

open Sys2Proof.Claims Sys2Proof.Laws

/-- `i` is a faithful reading of `w`: a well-formed instruction that encodes the named bits of `w`, selected
by named bits only (R85). -/
structure Reads (w : OpWord) (i : Instr) : Prop where
  encode_eq : encode i = w &&& namedBits w
  wellFormed : i.WellFormed
  mask_named : tableMask i &&& namedBits w = tableMask i

namespace Reads

variable {w : OpWord} {i j : Instr}

/-- A format without ignored bits. -/
theorem of_full (h1 : 0x11 ≤ primary w) (h2 : primary w < 0x20 ∨ 0x28 ≤ primary w) (hw : i.WellFormed)
    (he : encode i = w) : Reads w i := by
  have hn := namedBits_full h1 h2
  exact ⟨by rw [hn, BitVec.and_allOnes, he], hw, by rw [hn, BitVec.and_allOnes]⟩

/-- A format of one primary opcode `b`: `m` are its named bits, `r` the low bits of the word under them, and
`k` is the mask of the instruction's row. -/
theorem of_opcode {m : OpWord} {r : BitVec 16} (b : BitVec 8) (hp : (opField w 16 8).toNat = b.toNat)
    (hr : w &&& m = cat (opField w 16 8) r) (k : OpWord) (he : encode i = cat b r) (hw : i.WellFormed)
    (hm : namedBits (cat b 0#16) = m := by rfl) (hk : tableMask i = k := by rfl)
    (hkm : k &&& m = k := by decide) : Reads w i := by
  have hb : opField w 16 8 = b := BitVec.eq_of_toNat_eq hp
  have hn : namedBits w = m := (namedBits_primary w).trans (hb ▸ hm)
  exact ⟨by rw [hn, hr, hb, he], hw, by rw [hn, hk, hkm]⟩

/-- A test of a field of one bit. -/
theorem ite_bit {lo : Nat} (hi : opField w lo 1 = 1#1 → Reads w i) (hj : opField w lo 1 = 0#1 → Reads w j) :
    Reads w (if opField w lo 1 = 1#1 then i else j) := by
  split
  · next h => exact hi h
  · next h => exact hj ((BitVec.eq_zero_or_eq_one _).resolve_right h)

/-- The test of a class (R86): the primary opcodes with quotient `c` by `q`. -/
theorem ite_class {lo len : Nat} {b : BitVec len} (q c : Nat)
    (hi : opField w lo len = b → primary w / q = c → Reads w i) (hj : primary w / q ≠ c → Reads w j)
    (h16 : 16 ≤ lo := by decide) (h24 : lo + len = 24 := by decide) (hq : 2 ^ (lo - 16) = q := by rfl)
    (hc : b.toNat = c := by rfl) : Reads w (if opField w lo len = b then i else j) := by
  have hiff := opField_eq_iff (w := w) (b := b) h16 h24
  rw [hq, hc] at hiff
  split
  · next h => exact hi h (hiff.mp h)
  · next h => exact hj (mt hiff.mpr h)

end Reads

/-- The encoder's class of `SHM` is the primary opcode with the ignored bit below it written as 0. -/
theorem cat_shmClass (v : BitVec 15) : (cat 0b000100000#9 v : OpWord) = cat 0x10#8 (cat 0#1 v) := by
  apply BitVec.eq_of_toNat_eq
  simp [toNat_cat]

/-- The single opcodes, in the order of `decodeLow`. -/
theorem decodeLow_reads {w : OpWord} (h : primary w < 0x12) : Reads w (decodeLow w) := by
  unfold decodeLow
  dsimp only
  split
  case h_1 hp => exact .of_opcode 0x00#8 hp (and_FF0000 w) 0xFF0000 rfl rfl
  case h_2 hp => exact .of_opcode 0x01#8 hp (and_FF0000 w) 0xFF0000 rfl rfl
  case h_3 hp =>
    refine .ite_bit (fun hi => ?_) fun hi => ?_
    · exact .of_opcode 0x02#8 hp (and_FF8000 w) 0xFF8000 (by rw [hi]; rfl) rfl
    · exact .of_opcode 0x02#8 hp (and_FF8000 w) 0xFF8000 (by rw [hi]; rfl) rfl
  case h_4 hp => exact .of_opcode 0x03#8 hp (and_FF0000 w) 0xFF0000 rfl rfl
  case h_5 hp =>
    refine .of_opcode 0x04#8 hp (and_FF001F w) 0xFF0000 ?_ rfl
    simp [encode, ofBool_getElem, cat_opField]
  case h_6 hp => exact .of_opcode 0x05#8 hp (and_FF0000 w) 0xFF0000 rfl rfl
  case h_7 hp => exact .of_opcode 0x06#8 hp (and_FF1F00 w) 0xFF0000 (by simp [encode]) rfl
  case h_8 hp => exact .of_opcode 0x07#8 hp (and_FF0700 w) 0xFF0000 (by simp [encode]) rfl
  case h_9 hp => exact .of_opcode 0x08#8 hp (and_FF0000 w) 0xFF0000 rfl rfl
  case h_10 hp =>
    refine .of_opcode 0x09#8 hp (and_FF001F w) 0xFF0000 ?_ (sameGroup_genOf _ _ _)
    simp [encode, encodeIM, cat_opField]
  case h_11 hp =>
    refine .ite_bit (fun ht => ?_) fun ht => ?_
    · exact .of_opcode 0x0A#8 hp (and_FF001F w) 0xFF0010 (by simp [encode, ht]) rfl
    · exact .of_opcode 0x0A#8 hp (and_FF001F w) 0xFF0010 (by simp [encode, ht]) rfl
  case h_12 hp =>
    refine .ite_bit (fun hs => ?_) fun hs => ?_
    · exact .of_opcode 0x0B#8 hp (and_FF00DF w) 0xFF0010 (by simp [encode, hs]) (inDag2_genOf _)
    · exact .of_opcode 0x0B#8 hp (and_FF00DF w) 0xFF0010 (by simp [encode, hs]) (inDag2_genOf _)
  case h_13 hp => exact .of_opcode 0x0C#8 hp (and_FF0FF0 w) 0xFF0000 rfl rfl
  case h_14 hp => exact .of_opcode 0x0D#8 hp (and_FF0FFF w) 0xFF0000 (by simp [encode, cat_opField]) rfl
  case h_15 hp =>
    refine .of_opcode 0x0E#8 hp (and_FF7F0F w) 0xFF7800 ?_ (wellFormed_shcInstr _ _ _)
      (hk := tableMask_shcInstr _ _ _)
    simp [encode_shcInstr, encodeShc]
  case h_16 hp =>
    refine .of_opcode 0x0F#8 hp (and_FF7FFF w) _ ?_ (wellFormed_shiInstr _ _ _)
      (hk := tableMask_shiInstr _ _ _) (hkm := by split <;> decide)
    simp [encode_shiInstr, encodeShi, cat_opField]
  case h_17 hp =>
    refine .of_opcode 0x10#8 hp (and_FF7FFF w) 0xFF0000 ?_ rfl
    simp [encode, encodeShift, cat_shmClass, cat_opField]
  case h_18 =>
    have hw : (opField w 16 8).toNat = 0x11 := by
      change (opField w 16 8).toNat < 0x12 at h
      simp only [imp_false] at *
      omega
    have hp : primary w = 0x11 := hw
    have hb : opField w 16 8 = 0x11#8 := BitVec.eq_of_toNat_eq hw
    refine .ite_bit (fun hd => ?_) fun hd => ?_
    · have hc : opField w 15 9 = 0b000100011#9 := by rw [← cat_opField w (a := 8) (b := 1) rfl, hb, hd]; rfl
      refine .of_full (by omega) (by omega) (by simp [Instr.WellFormed, Instr.wellFormed]) ?_
      simp [encode, encodeShift, encodeIM, ← hc, cat_opField, opField_all]
    · have hc : opField w 15 9 = 0b000100010#9 := by rw [← cat_opField w (a := 8) (b := 1) rfl, hb, hd]; rfl
      refine .of_full (by omega) (by omega) (by simp [Instr.WellFormed, Instr.wellFormed]) ?_
      simp [encode, encodeShift, encodeIM, ← hc, cat_opField, opField_all]

/-- The classes, in the order of `decodeWord`. -/
theorem decodeWord_reads (w : OpWord) : Reads w (decodeWord w) := by
  unfold decodeWord
  dsimp only
  refine .ite_class 64 3 (fun h hp => ?_) fun hDual => ?_
  · refine .of_full (by omega) (by omega) (by simp [Instr.WellFormed, Instr.wellFormed]) ?_
    simp [encode, encodeIM, ← h, cat_opField, opField_all]
  refine .ite_class 32 5 (fun h hp => ?_) fun hSti => ?_
  · refine .of_full (by omega) (by omega) (sameGroup_genOf _ _ _) ?_
    simp [encode, encodeIM, ← h, cat_opField, opField_all]
  refine .ite_class 16 9 (fun h hp => ?_) fun hDirStore => ?_
  · refine .of_full (by omega) (by omega) rfl ?_
    simp [encode, ← h, cat_opField, opField_all]
  refine .ite_class 16 8 (fun h hp => ?_) fun hDirLoad => ?_
  · refine .of_full (by omega) (by omega) rfl ?_
    simp [encode, ← h, cat_opField, opField_all]
  refine .ite_class 32 3 (fun h hp => ?_) fun hCdm => ?_
  · refine .ite_bit (fun hd => ?_) fun hd => ?_
    · refine .of_full (by omega) (by omega) (sameGroup_genOf _ _ _) ?_
      simp [encode, encodeCompute, encodeIM, ← h, ← hd, ofBool_getElem, cat_opField, opField_all]
    · refine .of_full (by omega) (by omega) (sameGroup_genOf _ _ _) ?_
      simp [encode, encodeCompute, encodeIM, ← h, ← hd, ofBool_getElem, cat_opField, opField_all]
  refine .ite_class 16 5 (fun h hp => ?_) fun hCpm => ?_
  · refine .ite_bit (fun hd => ?_) fun hd => ?_
    · have hc : opField w 19 5 = 0b01011#5 := by rw [← cat_opField w (a := 4) (b := 1) rfl, h, hd]; rfl
      refine .of_full (by omega) (by omega) (by simp [Instr.WellFormed, Instr.wellFormed]) ?_
      simp [encode, encodeCompute, encodeIM, ← hc, ofBool_getElem, cat_opField, opField_all]
    · have hc : opField w 19 5 = 0b01010#5 := by rw [← cat_opField w (a := 4) (b := 1) rfl, h, hd]; rfl
      refine .of_full (by omega) (by omega) (by simp [Instr.WellFormed, Instr.wellFormed]) ?_
      simp [encode, encodeCompute, encodeIM, ← hc, ofBool_getElem, cat_opField, opField_all]
  refine .ite_class 16 4 (fun h hp => ?_) fun hLdd => ?_
  · refine .of_full (by omega) (by omega) rfl ?_
    simp [encode, ← h, cat_opField, opField_all]
  refine .ite_class 16 3 (fun h hp => ?_) fun hLdn => ?_
  · refine .of_full (by omega) (by omega) rfl ?_
    simp [encode, ← h, cat_opField, opField_all]
  refine .ite_class 8 5 (fun h hp => ?_) fun hCm => ?_
  · refine .of_full (by omega) (by omega) rfl ?_
    simp [encode, encodeCompute, ← h, ofBool_getElem, cat_opField, opField_all]
  refine .ite_class 8 4 (fun h hp => ?_) fun hCc => ?_
  · have hn : namedBits w = 0xFFFF0F := namedBits_cc (by omega) (by omega)
    refine ⟨?_, wellFormed_ccInstr _ _ _ _ _, ?_⟩
    · rw [hn, and_FFFF0F, h]
      simp [encode_ccInstr, encodeCc, ofBool_getElem]
    · rw [hn, tableMask_ccInstr]
      rfl
  refine .ite_class 4 7 (fun h hp => ?_) fun hCall => ?_
  · refine .of_full (by omega) (by omega) rfl ?_
    simp [encode, ← h, cat_opField, opField_all]
  refine .ite_class 4 6 (fun h hp => ?_) fun hJump => ?_
  · refine .of_full (by omega) (by omega) rfl ?_
    simp [encode, ← h, cat_opField, opField_all]
  refine .ite_class 4 5 (fun h hp => ?_) fun hDo => ?_
  · refine .of_full (by omega) (by omega) rfl ?_
    simp [encode, ← h, cat_opField, opField_all]
  refine .ite_class 2 9 (fun h hp => ?_) fun hShdm => ?_
  · refine .ite_bit (fun hd => ?_) fun hd => ?_
    · refine .of_full (by omega) (by omega) (sameGroup_genOf _ _ _) ?_
      simp [encode, encodeShift, encodeIM, ← h, ← hd, cat_opField, opField_all]
    · refine .of_full (by omega) (by omega) (sameGroup_genOf _ _ _) ?_
      simp [encode, encodeShift, encodeIM, ← h, ← hd, cat_opField, opField_all]
  have hp : primary w < 256 := (opField w 16 8).isLt
  exact decodeLow_reads (by omega)

/-- Words that agree on the named bits have the same encoding read from them, and so the same instruction. -/
theorem decodeWord_eq_of_agree {v w : OpWord} (h : v &&& namedBits w = w &&& namedBits w) :
    decodeWord v = decodeWord w := by
  have hv := decodeWord_reads v
  have hw := decodeWord_reads w
  calc decodeWord v
    _ = decodeWord (encode (decodeWord v)) := (decodeWord_encode hv.wellFormed).symm
    _ = decodeWord (encode (decodeWord w)) := by
      rw [hv.encode_eq, namedBits_eq_of_agree h, h, hw.encode_eq]
    _ = decodeWord w := decodeWord_encode hw.wellFormed

/-- Settles O2: each word is read faithfully, and the reading determines the instruction. -/
theorem ignoredBitsDropped : Obligations.IgnoredBitsDropped :=
  fun w => ⟨(decodeWord_reads w).encode_eq, fun _ h => decodeWord_eq_of_agree h⟩

/-! The rows of the opcode table -/

/-- Every encoding is of its instruction's row: the family of Laws/PerInstr, in the table's order. -/
theorem encode_and_tableMask (i : Instr) : encode i &&& tableMask i = tableMatch i := by
  cases i
  exacts [TableMatch.nop, TableMatch.reserved01, TableMatch.reserved02, TableMatch.idle, TableMatch.reserved03,
    TableMatch.stk .., TableMatch.satMr, TableMatch.divs .., TableMatch.divq .., TableMatch.reserved08,
    TableMatch.modify .., TableMatch.rts .., TableMatch.rti .., TableMatch.jumpInd .., TableMatch.callInd ..,
    TableMatch.mode .., TableMatch.move .., TableMatch.lshiftHi .., TableMatch.lshiftHiOr ..,
    TableMatch.lshiftLo .., TableMatch.lshiftLoOr .., TableMatch.ashiftHi .., TableMatch.ashiftHiOr ..,
    TableMatch.ashiftLo .., TableMatch.ashiftLoOr .., TableMatch.normHi .., TableMatch.normHiOr ..,
    TableMatch.normLo .., TableMatch.normLoOr .., TableMatch.expHi .., TableMatch.expHix ..,
    TableMatch.expLo .., TableMatch.expAdj .., TableMatch.lshiftHiBy .., TableMatch.lshiftHiOrBy ..,
    TableMatch.lshiftLoBy .., TableMatch.lshiftLoOrBy .., TableMatch.ashiftHiBy .., TableMatch.ashiftHiOrBy ..,
    TableMatch.ashiftLoBy .., TableMatch.ashiftLoOrBy .., TableMatch.reservedShi .., TableMatch.shiftMove ..,
    TableMatch.shiftPmRead .., TableMatch.shiftPmWrite .., TableMatch.shiftDmRead .., TableMatch.shiftDmWrite ..,
    TableMatch.doUntil .., TableMatch.jump .., TableMatch.call .., TableMatch.ccNop .., TableMatch.ccMulRnd ..,
    TableMatch.ccAddRnd .., TableMatch.ccSubRnd .., TableMatch.ccMulSS .., TableMatch.ccMulSU ..,
    TableMatch.ccMulUS .., TableMatch.ccMulUU .., TableMatch.ccAddSS .., TableMatch.ccAddSU ..,
    TableMatch.ccAddUS .., TableMatch.ccAddUU .., TableMatch.ccSubSS .., TableMatch.ccSubSU ..,
    TableMatch.ccSubUS .., TableMatch.ccSubUU .., TableMatch.ccPassY .., TableMatch.ccIncY ..,
    TableMatch.ccAddC .., TableMatch.ccAdd .., TableMatch.ccNotY .., TableMatch.ccNegY .., TableMatch.ccSubC ..,
    TableMatch.ccSub .., TableMatch.ccDecY .., TableMatch.ccRsub .., TableMatch.ccRsubC .., TableMatch.ccNotX ..,
    TableMatch.ccAndXY .., TableMatch.ccOrXY .., TableMatch.ccXorXY .., TableMatch.ccAbsX ..,
    TableMatch.computeMove .., TableMatch.loadImm14 .., TableMatch.loadImm16 .., TableMatch.computePmRead ..,
    TableMatch.computePmWrite .., TableMatch.computeDmRead .., TableMatch.computeDmWrite ..,
    TableMatch.loadDirect .., TableMatch.storeDirect .., TableMatch.storeImm .., TableMatch.computeDual ..]

/-- Mask and match of the instruction's row. -/
def tableRow (i : Instr) : OpWord × OpWord := (tableMask i, tableMatch i)

/-- One instruction of each row, by class. -/
def rowInstrs : List Instr := List.flatten [
  [.nop, .reserved01, .reserved02, .idle, .reserved03, .stk false false false 0, .satMr, .divs .y0 .x0,
    .divq .x0, .reserved08, .modify 0 0, .rts .eq, .rti .eq, .jumpInd 4 .eq, .callInd 4 .eq, .mode 0 0 0 0,
    .move .data 0 .data 0],
  (List.range 16).map fun k => shcInstr (.ofCode (.ofNat 4 k)) .x0 .eq,
  (List.range 9).map fun k => shiInstr (.ofNat 4 k) .x0 0,
  [.shiftMove .lshiftHi .x0 .ax0 .ax0, .shiftPmRead .lshiftHi .x0 .ax0 4 4, .shiftPmWrite .lshiftHi .x0 .ax0 4 4,
    .shiftDmRead .lshiftHi .x0 .ax0 0 0, .shiftDmWrite .lshiftHi .x0 .ax0 0 0, .doUntil 0 0, .jump 0 .eq,
    .call 0 .eq],
  (List.range 32).map fun k => ccInstr (.ofCode (.ofNat 5 k)) false .y0 .x0 .eq,
  [.computeMove (.mac .nop) false .y0 .x0 .ax0 .ax0, .loadImm14 .data 0 0, .loadImm16 0 .ax0,
    .computePmRead (.mac .nop) false .y0 .x0 .ax0 4 4, .computePmWrite (.mac .nop) false .y0 .x0 .ax0 4 4,
    .computeDmRead (.mac .nop) false .y0 .x0 .ax0 0 0, .computeDmWrite (.mac .nop) false .y0 .x0 .ax0 0 0,
    .loadDirect .data 0 0, .storeDirect .data 0 0, .storeImm 0 0 0,
    .computeDual (.mac .nop) .y0 .x0 .ax0 0 0 .ay0 4 4]]

/-- The opcode table, by mask and match. -/
def tableRows : List (OpWord × OpWord) := rowInstrs.map tableRow

theorem tableRow_mem (i : Instr) : tableRow i ∈ tableRows := by
  cases i <;> exact List.elem_iff.mp rfl

/-- No word is of both rows: where both masks look, the matches differ. -/
abbrev RowsApart (r r' : OpWord × OpWord) : Prop := r.2 &&& r'.1 ≠ r'.2 &&& r.1

theorem tableRows_apart : tableRows.Pairwise RowsApart := by decide +kernel

/-- A word is of one row only. -/
theorem tableRow_unique {w : OpWord} {i j : Instr} (hi : w &&& tableMask i = tableMatch i)
    (hj : w &&& tableMask j = tableMatch j) : tableRow i = tableRow j := by
  have hshared : tableMatch i &&& tableMask j = tableMatch j &&& tableMask i := by
    rw [← hi, ← hj, BitVec.and_assoc, BitVec.and_assoc, BitVec.and_comm (tableMask i)]
  have : Std.Symm RowsApart := ⟨fun _ _ h => h.symm⟩
  by_contra hne
  exact tableRows_apart.forall (tableRow_mem i) (tableRow_mem j) hne hshared

theorem decodeWord_of_row (w : OpWord) : w &&& tableMask (decodeWord w) = tableMatch (decodeWord w) := by
  have h := decodeWord_reads w
  calc w &&& tableMask (decodeWord w)
    _ = w &&& namedBits w &&& tableMask (decodeWord w) := by
      rw [BitVec.and_assoc, BitVec.and_comm (namedBits w), h.mask_named]
    _ = tableMatch (decodeWord w) := by rw [← h.encode_eq, encode_and_tableMask]

/-- Settles O3: the decoded instruction is of a row the word matches, rows share no word, and the reading of
the word is faithful. -/
theorem decodingFollowsTable : Obligations.DecodingFollowsTable := by
  intro w
  have h := decodeWord_reads w
  refine ⟨decodeWord_of_row w, fun i hi => ?_, h.wellFormed, ?_, fun _ hv => decodeWord_eq_of_agree hv⟩
  · exact Prod.mk.inj (tableRow_unique hi (decodeWord_of_row w))
  · rw [h.encode_eq, BitVec.and_assoc, BitVec.and_not_self]
    exact BitVec.and_zero

end Sys2Proof
end

section
/-! PROOFS. The sequencing of a step (R71): LoopCheckChoosesPc, StepRunsDecoded, ReservedWordsOnlyAdvance. -/

namespace Sys2Proof.Machine

open Sys2Proof.Claims

/-! ## The loop check (step 4 of R71) -/

/-- The termination code 14 is the counter condition, and no other code is. -/
theorem ofCode_eq_notCe_iff (t : BitVec 4) : Cond.ofCode t = .notCe ↔ t = 14 := by
  revert t
  decide

theorem evalCond_of_ne_notCe {c : Cond} (hc : c ≠ .notCe) (s : State) :
    evalCond c s = (condTable c s.astat, s) := by
  rcases evalCond_cases s c with ⟨_, e⟩ | ⟨h, _⟩ | ⟨h, _⟩
  · exact e
  · exact absurd h hc
  · exact absurd h hc

theorem evalCond_notCe_counting {s : State} (h : 1 < s.cntr.toNat) :
    evalCond .notCe s = (true, s.setCntr (s.cntr - 1)) := by
  simp [evalCond, h]

/-- The counter that runs out is replaced by the popped one, so its decrement leaves no trace. -/
theorem evalCond_notCe_done {s : State} (h : s.cntr.toNat ≤ 1) : evalCond .notCe s = (false, popCntr s) := by
  have h' : ¬1 < s.cntr.toNat := by omega
  simp only [evalCond, gt_iff_lt, h', if_false]
  rfl

theorem loopCheck_outside {s : State} (h : s.loopEnd ≠ some s.pc) : loopCheck s = s.setPc (s.pc + 1) :=
  if_neg h

/-- At the end of the loop with its condition true: back to the top of the loop. -/
theorem loopCheck_back {s u : State} (h : s.loopEnd = some s.pc)
    (he : evalCond (Cond.ofCode s.loopTerm) s = (true, u)) : loopCheck s = u.setPc u.pcStk.top := by
  unfold loopCheck
  rw [if_pos h, he]
  rfl

/-- At the end of the loop with its condition false: out of the loop. -/
theorem loopCheck_leave {s u : State} (h : s.loopEnd = some s.pc)
    (he : evalCond (Cond.ofCode s.loopTerm) s = (false, u)) :
    loopCheck s = (popPc (popLoop u)).setPc (u.pc + 1) := by
  unfold loopCheck
  rw [if_pos h, he]
  simp

/-- Settles O7: the five cases are the loop check outside a loop's end, and there the condition's two answers,
by the table or by the counter. -/
theorem loopCheckChoosesPc : Obligations.LoopCheckChoosesPc := by
  intro s
  have hTable (ht : s.loopTerm ≠ 14) : evalCond (Cond.ofCode s.loopTerm) s =
      (condTable (Cond.ofCode s.loopTerm) s.astat, s) :=
    evalCond_of_ne_notCe (mt (ofCode_eq_notCe_iff _).mp ht) s
  have hCounter (ht : s.loopTerm = 14) : Cond.ofCode s.loopTerm = .notCe := (ofCode_eq_notCe_iff _).mpr ht
  refine ⟨loopCheck_outside, fun h ht hc => ?_, fun h ht hc => ?_, fun h ht hn => ?_, fun h ht hn => ?_⟩
  · exact loopCheck_back h (hc ▸ hTable ht)
  · exact loopCheck_leave h (hc ▸ hTable ht)
  · exact loopCheck_back h (hCounter ht ▸ evalCond_notCe_counting hn)
  · exact loopCheck_leave h (hCounter ht ▸ evalCond_notCe_done hn)

/-! ## The step -/

/-- With no line requesting the arbitration pass changes nothing (R306). -/
theorem arbitrate_of_no_request {s : State} (h : ∀ n, ¬Requests s n) : arbitrate s = s := by
  have hnone : takenLine s = none := (takenLine_none s).mpr fun n ha => by
    by_contra hm
    exact h n ⟨ha, Bool.eq_true_of_not_eq_false hm⟩
  rw [arbitrate, hnone]

/-- What the host has seen after a fetch (R58). -/
theorem afterFetch_eq_portPm (s : State) : afterFetch s = portPm s.pc s := rfl

theorem fetch_memory {s : State} (h : s.pc ∉ s.pmDevices) : fetch s =
    wordOfBytes (s.pm.read (pmByte s.pc)) (s.pm.read (pmByte s.pc + 1)) (s.pm.read (pmByte s.pc + 2)) :=
  if_neg h

theorem fetch_device {s : State} (h : s.pc ∈ s.pmDevices) : fetch s = Config.deviceAnswer s.events.length :=
  if_pos h

theorem step_idle {s : State} (h : (arbitrate s).idle = true) : step s = .next (arbitrate s) := by
  rcases step_cases s with ⟨_, e⟩ | ⟨hn, _⟩
  · exact e
  · exact absurd (h.symm.trans hn) (by decide)

theorem step_awake {s : State} (h : (arbitrate s).idle = false) : step s =
    exec (decodeWord (fetch (arbitrate s))) (loopCheck (afterFetch ((arbitrate s).setPpc (arbitrate s).pc))) := by
  rcases step_cases s with ⟨hi, _⟩ | ⟨_, e⟩
  · exact absurd (hi.symm.trans h) (by decide)
  · exact e

/-- Settles O5: the fetch is the stored word or the device's answer, and the read of a stored word is no
event. -/
theorem stepRunsDecoded : Obligations.StepRunsDecoded := by
  intro s i a
  refine ⟨fun hidle hmem hdec _ => ?_, fun hidle hdev => ?_, step_idle⟩
  · have hi : decodeWord (fetch a) = i := by
      rw [fetch_memory hmem]
      exact (Prod.mk.inj (Except.ok.inj hdec)).1
    have hport : afterFetch (a.setPpc a.pc) = a.setPpc a.pc := if_neg hmem
    rw [step_awake hidle, hi, hport]
  · rw [step_awake hidle, fetch_device hdev, afterFetch_eq_portPm, State.setPpc_pc]

/-! ## Reserved words (R87) -/

/-- No class test of the decoder answers for the single opcodes. -/
theorem opField_ne_of_low {w : OpWord} (hw : primary w < 0x12) {lo len : Nat} {b : BitVec len} (h16 : 16 ≤ lo)
    (h24 : lo + len = 24) (hb : 0x12 ≤ b.toNat * 2 ^ (lo - 16)) : opField w lo len ≠ b := by
  rw [ne_eq, opField_eq_iff h16 h24]
  intro h
  have := Nat.div_mul_le_self (primary w) (2 ^ (lo - 16))
  rw [h] at this
  omega

theorem decodeWord_low {w : OpWord} (hw : primary w < 0x12) : decodeWord w = decodeLow w := by
  unfold decodeWord
  dsimp only
  iterate 14 rw [if_neg (opField_ne_of_low hw (by decide) (by decide) (by decide))]

/-- A reserved word decodes to an instruction that executes as `NOP`: the reserved opcodes, `0x02` without its
bit 15, and `SHI` with `SF[3]` = 1. -/
theorem exec_reservedWord {w : OpWord} (h : reservedWord w) (s : State) : exec (decodeWord w) s = .next s := by
  have hlow : primary w < 0x12 := by
    unfold reservedWord at h
    unfold primary opField
    omega
  rw [decodeWord_low hlow]
  rcases h with hp | hp | hp | ⟨hp, h15⟩ | ⟨hp, h14⟩
  · have hd : decodeLow w = .reserved01 := by simp only [decodeLow, opField, hp]
    rw [hd]
    rfl
  · have hd : decodeLow w = .reserved03 := by simp only [decodeLow, opField, hp]
    rw [hd]
    rfl
  · have hd : decodeLow w = .reserved08 := by simp only [decodeLow, opField, hp]
    rw [hd]
    rfl
  · have hbit : opField w 15 1 ≠ 1#1 := by
      rw [← ofBool_getElem w 15 (by decide), ← BitVec.getLsbD_eq_getElem, h15]
      decide
    have hd : decodeLow w = .reserved02 := by
      simp only [decodeLow, show (opField w 16 8).toNat = 2 from hp, if_neg hbit]
    rw [hd]
    rfl
  · have hsf : (opField w 11 4).getLsbD 3 = true := by simpa [opField] using h14
    have hd := shiInstr_reserved hsf (.ofCode (opField w 8 3)) (opField w 0 8)
    have hl : decodeLow w = shiInstr (opField w 11 4) (.ofCode (opField w 8 3)) (opField w 0 8) := by
      simp only [decodeLow, show (opField w 16 8).toNat = 0x0F from hp]
    rw [hl, hd]
    rfl

/-- Settles O40: no line is taken, and the fetched word executes as `NOP`. -/
theorem reservedWordsOnlyAdvance : Obligations.ReservedWordsOnlyAdvance := by
  intro s w hw hq hidle hfetch
  have ha := arbitrate_of_no_request hq
  have hstep := step_awake (s := s) (by rw [ha, hidle])
  rw [ha] at hstep
  rw [hstep, fetch, hfetch, exec_reservedWord hw]
  rfl

end Sys2Proof.Machine
end

section
/-! PROOFS. The conditions (R101 to R105): what the sixteen codes read, the counter of code 14, the loop it
ends, and the flags that a subtraction leaves for them: ConditionTable, ConditionCounts, CountedLoopRunsN,
CompareAfterSubtract. -/

namespace Sys2Proof.Machine

/-! ## The table and the counter (R102, R104) -/

/-- Settles O9: each code is read back as its condition, whose entry is the same function of the same bits. -/
theorem conditionTable : Obligations.ConditionTable := fun _ => rfl

/-- The integer decrement of the counter is the word's, from 0 too. -/
theorem ofInt_toNat_sub_one (v : Word) : BitVec.ofInt 16 (v.toNat - 1) = v - 1 := by
  have hv := v.isLt
  apply BitVec.eq_of_toNat_eq
  rw [BitVec.toNat_ofInt, BitVec.toNat_sub]
  change ((v.toNat - 1 : Int) % 65536).toNat = (65536 - 1 + v.toNat) % 65536
  omega

theorem popCntr_setCntr (s : State) (v : Word) : popCntr (s.setCntr v) = popCntr s := rfl

/-- Settles O10: a table code, the counter that goes on and the counter that runs out. -/
theorem conditionCounts : Obligations.ConditionCounts := by
  intro c s
  rw [ofInt_toNat_sub_one, popCntr_setCntr]
  refine ⟨fun hc => evalCond_of_ne_notCe hc s, fun hc hn => ?_, fun hc hn => ?_⟩
  · rw [hc, evalCond_notCe_counting hn]
  · rw [hc, evalCond_notCe_done hn]

/-! ## A counted loop (R105) -/

theorem toNat_sub_ofNat {v : Word} {k : Nat} (hk : k ≤ v.toNat) : (v - BitVec.ofNat 16 k).toNat = v.toNat - k := by
  have hv := v.isLt
  rw [BitVec.toNat_sub, BitVec.toNat_ofNat]
  omega

theorem popLoop_setPc (s : State) (a : Addr) : popLoop (s.setPc a) = (popLoop s).setPc a := by
  by_cases h : s.loopStk.pop.sp = 0 <;> simp only [popLoop, State.setPc_loopStk, h, if_true, if_false] <;> rfl

/-- No pop reads or writes `PC`. -/
theorem popStacks_setPc (s : State) (a : Addr) :
    popPc (popLoop (popCntr (s.setPc a))) = (popPc (popLoop (popCntr s))).setPc a :=
  congrArg popPc (popLoop_setPc (popCntr s) a)

/-- A check at the end `e` of the loop: the loop check when the instruction at `e` is fetched. -/
def loopCheckAt (e : Addr) (s : State) : State := loopCheck (s.setPc e)

section
variable {e : Addr} {s : State} (he : s.loopEnd = some e) (ht : s.loopTerm = 14)
include he ht

theorem loopCheckAt_counting (hn : 1 < s.cntr.toNat) :
    loopCheckAt e s = (s.setCntr (s.cntr - 1)).setPc s.pcStk.top := by
  obtain ⟨_, _, _, hBack, _⟩ := loopCheckChoosesPc (s.setPc e)
  exact hBack he ht hn

theorem loopCheckAt_expired (hn : s.cntr.toNat ≤ 1) :
    loopCheckAt e s = (popPc (popLoop (popCntr s))).setPc (e + 1) := by
  obtain ⟨_, _, _, _, hLeave⟩ := loopCheckChoosesPc (s.setPc e)
  rw [loopCheckAt, hLeave he ht hn, popStacks_setPc]
  rfl

/-- The checks before the last have counted down and gone back to the loop's start, and changed nothing
else. -/
theorem loopCheckAt_iterate {k : Nat} (hk : k < s.cntr.toNat) :
    (loopCheckAt e)^[k] s =
      (s.setCntr (s.cntr - BitVec.ofNat 16 k)).setPc (if k = 0 then s.pc else s.pcStk.top) := by
  induction k with
  | zero => simp [State.setCntr, State.setPc]
  | succ k ih =>
    have hn : 1 < (s.cntr - BitVec.ofNat 16 k).toNat := by
      rw [toNat_sub_ofNat (by omega)]
      omega
    have hsucc : s.cntr - BitVec.ofNat 16 k - 1 = s.cntr - BitVec.ofNat 16 (k + 1) := by
      rw [BitVec.sub_sub, BitVec.ofNat_add]
      rfl
    rw [Function.iterate_succ_apply', ih (by omega), loopCheckAt_counting (by exact he) (by exact ht) hn, ← hsucc]
    rfl

/-- The check after those leaves the loop, with `CNTR` and the three stacks popped. -/
theorem loopCheckAt_iterate_last (h1 : 1 ≤ s.cntr.toNat) :
    (loopCheckAt e)^[s.cntr.toNat] s = (popPc (popLoop (popCntr s))).setPc (e + 1) := by
  obtain ⟨n, hN⟩ : ∃ n, s.cntr.toNat = n + 1 := ⟨s.cntr.toNat - 1, by omega⟩
  have hn : (s.cntr - BitVec.ofNat 16 n).toNat ≤ 1 := by
    rw [toNat_sub_ofNat (by omega)]
    omega
  rw [hN, Function.iterate_succ_apply', loopCheckAt_iterate he ht (by omega),
    loopCheckAt_expired (by exact he) (by exact ht) hn, popStacks_setPc, popCntr_setCntr]
  rfl

end

/-- Settles O8: the first N - 1 checks find the counter above 1, the N-th finds it at 1. -/
theorem countedLoopRunsN : Obligations.CountedLoopRunsN := by
  intro s e he ht h1 check
  have hcheck : check = loopCheckAt e := rfl
  rw [hcheck, loopCheckAt_iterate_last he ht h1]
  refine ⟨fun k hk hlt => ?_, by simp⟩
  have hpc : (if k = 0 then s.pc else s.pcStk.top) = s.pcStk.top := if_neg (by omega)
  rw [loopCheckAt_iterate he ht hlt, hpc]
  exact ⟨rfl, toNat_sub_ofNat (by omega), he, rfl, rfl⟩

/-! ## The flags of an ALU operation (R113, R114) -/

theorem aluFlags_az (m : BitVec 4) (f : BitVec 8) (o : AluOut) :
    (aluFlags m f o).getLsbD Flag.az = (o.r == 0) := by
  simp only [aluFlags, getLsbD_putBit]
  simp [Flag.az, Flag.an, Flag.av, Flag.ac]

theorem aluFlags_an (m : BitVec 4) (f : BitVec 8) (o : AluOut) :
    (aluFlags m f o).getLsbD Flag.an = o.r.msb := by
  simp only [aluFlags, getLsbD_putBit]
  simp [Flag.an, Flag.av, Flag.ac]

/-- `AV` is the operation's overflow, or'ed to the old `AV` under `AV_LATCH`. -/
theorem aluFlags_av (m : BitVec 4) (f : BitVec 8) (o : AluOut) :
    (aluFlags m f o).getLsbD Flag.av = (m.getLsbD Mode.avLatch && f.getLsbD Flag.av || o.ovf) := by
  simp only [aluFlags, getLsbD_putBit]
  cases h : m.getLsbD Mode.avLatch <;> simp [Flag.az, Flag.an, Flag.av, Flag.ac, astatClear, h]

/-! ## The adder, from exact integers (R112) -/

/-- The sum of the two signed operands and the carry. -/
def exactSum (a b : Word) (cin : Bool) : Int := a.toInt + b.toInt + cin.toNat

theorem addc_r (a b : Word) (cin : Bool) : (addc a b cin).r = BitVec.ofInt 16 (exactSum a b cin) := by
  apply BitVec.eq_of_toNat_eq
  simp only [addc, exactSum, BitVec.toNat_ofNat, BitVec.toNat_ofInt, BitVec.toInt_eq_toNat_cond]
  omega

/-- Equal signs of the operands and another sign of the result: the exact sum is no 16-bit signed number. -/
theorem addc_ovf (a b : Word) (cin : Bool) :
    (addc a b cin).ovf = decide (exactSum a b cin < -32768 ∨ 32767 < exactSum a b cin) := by
  have ha := a.isLt
  have hb := b.isLt
  have hc := cin.toNat_le
  rw [Bool.eq_iff_iff, decide_eq_true_eq]
  simp only [addc, exactSum, BitVec.msb_eq_decide, BitVec.toInt_eq_toNat_cond, BitVec.toNat_ofNat, bne_iff_ne,
    Bool.and_eq_true, beq_iff_eq, decide_eq_decide, ne_eq]
  omega

/-- Subtracting is adding the complement and 1. -/
theorem exactSum_not (x y : Word) : exactSum x (~~~y) true = x.toInt - y.toInt := by
  have hy := y.isLt
  simp only [exactSum, BitVec.toInt_eq_toNat_cond, BitVec.toNat_not, Bool.toNat_true]
  omega

/-! ## The comparisons after `X - Y` (R103) -/

/-- The sign bit of a sum reduced to 16 bits is its own sign, wrong exactly when the sum overflows. -/
theorem msb_ofInt_xor_overflow {v : Int} (hlo : -65536 ≤ v) (hhi : v < 65536) :
    ((BitVec.ofInt 16 v).msb ^^ decide (v < -32768 ∨ 32767 < v)) = decide (v < 0) := by
  have hmsb : (BitVec.ofInt 16 v).msb = decide (32768 ≤ v % 65536) := by
    rw [BitVec.msb_eq_decide, BitVec.toNat_ofInt, decide_eq_decide]
    omega
  rw [hmsb, Bool.eq_iff_iff, Bool.xor_iff_ne, ne_eq, decide_eq_decide, decide_eq_true_eq]
  omega

theorem ofInt_beq_zero {v : Int} (hlo : -65536 < v) (hhi : v < 65536) :
    (BitVec.ofInt 16 v == 0) = decide (v = 0) := by
  rw [Bool.beq_eq_decide_eq, decide_eq_decide, ← BitVec.toNat_inj, BitVec.toNat_ofInt]
  change (v % 65536).toNat = 0 ↔ v = 0
  omega

theorem toInt_sub_toInt_bounds (x y : Word) : -65536 < x.toInt - y.toInt ∧ x.toInt - y.toInt < 65536 := by
  have hx := x.isLt
  have hy := y.isLt
  simp only [BitVec.toInt_eq_toNat_cond]
  omega

/-- `AZ` of the subtraction: the operands are equal. -/
theorem sub_r_beq_zero (x y : Word) : ((addc x (~~~y) true).r == 0) = decide (x.toInt = y.toInt) := by
  obtain ⟨hlo, hhi⟩ := toInt_sub_toInt_bounds x y
  rw [addc_r, exactSum_not, ofInt_beq_zero hlo hhi, decide_eq_decide]
  exact sub_eq_zero

/-- `AN` of the subtraction, put right by its overflow, is the sign of the exact difference. -/
theorem sub_msb_xor_ovf (x y : Word) :
    ((addc x (~~~y) true).r.msb ^^ (addc x (~~~y) true).ovf) = decide (x.toInt < y.toInt) := by
  obtain ⟨hlo, hhi⟩ := toInt_sub_toInt_bounds x y
  rw [addc_r, addc_ovf, exactSum_not, msb_ofInt_xor_overflow (by omega) hhi, decide_eq_decide]
  exact sub_neg

/-- The six signed comparisons are made of `LT` and `EQ`. -/
theorem condTable_comparisons {f : BitVec 8} {X Y : Int} (hlt : condTable .lt f = decide (X < Y))
    (heq : condTable .eq f = decide (X = Y)) :
    condTable .lt f = decide (X < Y) ∧ condTable .ge f = decide (Y ≤ X) ∧
      condTable .le f = decide (X ≤ Y) ∧ condTable .gt f = decide (Y < X) ∧
      condTable .eq f = decide (X = Y) ∧ condTable .ne f = decide (X ≠ Y) := by
  have hor : (decide (X < Y) || decide (X = Y)) = decide (X ≤ Y) := by
    rw [← Bool.decide_or, decide_eq_decide]
    exact le_iff_lt_or_eq.symm
  have hge : condTable .ge f = !decide (X < Y) := congrArg not hlt
  have hle : condTable .le f = decide (X ≤ Y) := (congrArg₂ or hlt heq).trans hor
  have hgt : condTable .gt f = !decide (X ≤ Y) := congrArg not hle
  have hne : condTable .ne f = !decide (X = Y) := congrArg not heq
  refine ⟨hlt, ?_, hle, ?_, heq, ?_⟩
  · rw [hge, ← decide_not, decide_eq_decide, not_lt]
  · rw [hgt, ← decide_not, decide_eq_decide, not_le]
  · rw [hne, ← decide_not]

theorem aluOp_sub_astat (z : Bool) (y : Yop) (x : Xop) (s : State) : (aluOp .sub z y x s).astat =
    aluFlags s.mstat s.astat (addc (aluX s.bank x) (~~~(aluY s.bank y)) true) := rfl

/-- Settles O11: `LT` and `EQ` read the exact difference, whatever was written to `AR` or `AF`. -/
theorem compareAfterSubtract : Obligations.CompareAfterSubtract := by
  intro z y x s (hs : s.mstat.getLsbD Mode.avLatch = false)
  refine ⟨aluOp .sub z y x s, rfl, condTable_comparisons ?_ ?_⟩
  · rw [aluOp_sub_astat, condTable, aluFlags_an, aluFlags_av, hs, Bool.false_and, Bool.false_or, sub_msb_xor_ovf]
  · rw [aluOp_sub_astat, condTable, aluFlags_az, sub_r_beq_zero]

end Sys2Proof.Machine
end

section
/-! PROOFS. The ALU (R110 to R133): the fifteen functions and `ABS` as the exact results the statements give,
and the two divide steps: AluArithmetic, AluLogic, AluAbsolute, DivideSteps. -/

namespace Sys2Proof.Machine

open Sys2Proof.Claims

/-! ## An effect under a condition (R104, R106) -/

/-- An effect under a condition is `gated`, and sees the state before but for the counter: it may be replaced
by one that agrees with it whatever the counter is. -/
theorem condDo_eq_gated {c : Cond} {k k' : State → State} {s : State}
    (h : ∀ v, k (s.setCntr v) = k' (s.setCntr v)) : condDo c k s = .next (gated c k' s) := by
  by_cases hc : c = .notCe
  · subst hc
    by_cases hn : 1 < s.cntr.toNat
    · simp [condDo, gated, evalCond_notCe_counting hn, hn, h]
    · simp [condDo, gated, evalCond_notCe_done (Nat.le_of_not_lt hn), hn, popCntr_setCntr]
  · have hs : k s = k' s := h s.cntr
    cases ht : condTable c s.astat <;> simp [condDo, gated, evalCond_of_ne_notCe hc, hc, ht, hs]

/-! ## The flags byte (R21, R113, R131) -/

/-- A byte is the flags byte of its bits. -/
theorem flagsByte_getLsbD (f : BitVec 8) :
    flagsByte (f.getLsbD Flag.az) (f.getLsbD Flag.an) (f.getLsbD Flag.av) (f.getLsbD Flag.ac)
      (f.getLsbD Flag.asn) (f.getLsbD Flag.aq) (f.getLsbD Flag.mv) (f.getLsbD Flag.ss) = f := by
  apply BitVec.eq_of_getLsbD_eq
  intro j hj
  rw [flagsByte, BitVec.getLsbD_ofBoolListLE]
  interval_cases j <;> rfl

theorem aluFlags_ac (m : BitVec 4) (f : BitVec 8) (o : AluOut) :
    (aluFlags m f o).getLsbD Flag.ac = o.carry := by
  simp only [aluFlags, getLsbD_putBit]
  simp [Flag.ac]

/-- `AS`, `AQ`, `MV` and `SS` are no flags of the adder or the logic unit. -/
theorem aluFlags_above_ac (m : BitVec 4) (f : BitVec 8) (o : AluOut) {j : Nat} (hlo : 4 ≤ j) (hhi : j < 8) :
    (aluFlags m f o).getLsbD j = f.getLsbD j := by
  simp only [aluFlags, getLsbD_putBit]
  interval_cases j <;> cases h : m.getLsbD Mode.avLatch <;>
    simp [Flag.az, Flag.an, Flag.av, Flag.ac, astatClear, h]

/-- `AS` after an ALU function: the sign of `X` after `ABS`, and otherwise kept. -/
def signFlag (f : AluFn) (astat : BitVec 8) (x : Word) : Bool :=
  if f = .absX then x.msb else astat.getLsbD Flag.asn

theorem aluAstat_of_ne_absX {f : AluFn} (hf : f ≠ .absX) (m : BitVec 4) (a : BitVec 8) (x : Word) (o : AluOut) :
    aluAstat f m a x o = aluFlags m a o := by
  cases f with
  | absX => exact absurd rfl hf
  | _ => rfl

theorem getLsbD_aluAstat_asn (f : AluFn) (m : BitVec 4) (a : BitVec 8) (x : Word) (o : AluOut) :
    (aluAstat f m a x o).getLsbD Flag.asn = signFlag f a x := by
  by_cases hf : f = .absX
  · simp only [hf, aluAstat, signFlag, getLsbD_putBit]
    rfl
  · rw [aluAstat_of_ne_absX hf, signFlag, if_neg hf, aluFlags_above_ac m a o (by decide) (by decide)]

theorem getLsbD_aluAstat_of_ne_asn (f : AluFn) (m : BitVec 4) (a : BitVec 8) (x : Word) (o : AluOut) {j : Nat}
    (hj : j ≠ Flag.asn) : (aluAstat f m a x o).getLsbD j = (aluFlags m a o).getLsbD j := by
  by_cases hf : f = .absX
  · simp only [hf, aluAstat, getLsbD_putBit, hj, false_and, if_false]
  · rw [aluAstat_of_ne_absX hf]

theorem aluAstat_eq_flagsByte (f : AluFn) (m : BitVec 4) (a : BitVec 8) (x : Word) (o : AluOut) :
    aluAstat f m a x o =
      flagsByte (o.r == 0) o.r.msb ((m.getLsbD Mode.avLatch && a.getLsbD Flag.av) || o.ovf) o.carry
        (signFlag f a x) (a.getLsbD Flag.aq) (a.getLsbD Flag.mv) (a.getLsbD Flag.ss) := by
  rw [← flagsByte_getLsbD (aluAstat f m a x o)]
  simp (disch := decide) only [getLsbD_aluAstat_asn, getLsbD_aluAstat_of_ne_asn, aluFlags_az, aluFlags_an,
    aluFlags_av, aluFlags_ac, aluFlags_above_ac]

/-! ## An ALU function under its condition (R110, R115) -/

theorem aluOp_eq_aluResult (f : AluFn) (z : Bool) (y : Yop) (x : Xop) (s : State) :
    aluOp f z y x s =
      let X := aluX s.bank x
      let o := aluOut f X (aluY s.bank y) (s.astat.getLsbD Flag.ac)
      aluResult z o.r o.ovf o.carry (signFlag f s.astat X) s := by
  simp only [aluOp, aluAstat_eq_flagsByte]
  rfl

/-- What is to be proved of an ALU function is the result, the overflow and the carry of its operands. -/
theorem condCompute_alu_eq_gated {f : AluFn} {z : Bool} {y : Yop} {x : Xop} {c : Cond} {s : State} {o : AluOut}
    {k : State → State} (ho : aluOut f (aluX s.bank x) (aluY s.bank y) (s.astat.getLsbD Flag.ac) = o)
    (hk : ∀ u, u.astat = s.astat →
      aluResult z o.r o.ovf o.carry (signFlag f s.astat (aluX s.bank x)) u = k u) :
    condCompute (.alu f) z y x c s = .next (gated c k s) :=
  condDo_eq_gated fun v => by
    rw [← hk (s.setCntr v) rfl, ← ho]
    exact aluOp_eq_aluResult f z y x (s.setCntr v)

/-! ## The nine adder functions (R112, R117 to R126) -/

/-- The carry out of bit 15 is a sum of 65536 or more. -/
theorem addc_carry (a b : Word) (cin : Bool) :
    (addc a b cin).carry = decide (65536 ≤ a.toNat + b.toNat + cin.toNat) := by
  have ha := a.isLt
  have hb := b.isLt
  have hc := cin.toNat_le
  rw [addc, Nat.testBit_eq_decide_div_mod_eq, decide_eq_decide]
  omega

/-- Adding the complement and the carry: the difference, less 1 without the carry. -/
theorem exactSum_not_carry (x y : Word) (c : Bool) :
    exactSum x (~~~y) c = x.toInt - y.toInt + c.toNat - 1 := by
  have h := exactSum_not x y
  simp only [exactSum, Bool.toNat_true] at h ⊢
  omega

/-- The carry of a subtraction says that nothing was borrowed. -/
theorem carry_not_iff (x y : Word) (c : Bool) :
    65536 ≤ x.toNat + (~~~y).toNat + c.toNat ↔ y.toNat + 1 ≤ x.toNat + c.toNat := by
  have hy := y.isLt
  rw [BitVec.toNat_not]
  omega

/-- A function that is one use of the adder leaves the exact sum and its carry. -/
theorem condCompute_adder {f : AluFn} {z : Bool} {y : Yop} {x : Xop} {c : Cond} {s : State} {a b : Word}
    {cin : Bool} {v : Int} {carry : Prop} [Decidable carry] (hf : f ≠ .absX)
    (ho : aluOut f (aluX s.bank x) (aluY s.bank y) (s.astat.getLsbD Flag.ac) = addc a b cin)
    (hv : exactSum a b cin = v) (hc : 65536 ≤ a.toNat + b.toNat + cin.toNat ↔ carry) :
    condCompute (.alu f) z y x c s = .next (gated c (arithmetic z v (decide carry)) s) :=
  condCompute_alu_eq_gated ho fun u hu => by
    rw [addc_r, addc_ovf, addc_carry, hv, decide_eq_decide.mpr hc, signFlag, if_neg hf, ← hu]
    rfl

/-- Settles O12: each function is one use of the adder; a subtraction adds the complement. -/
theorem aluArithmetic : Obligations.AluArithmetic := by
  intro z y x c s X Y C does
  refine ⟨?incY, ?addC, ?add, ?negY, ?subC, ?sub, ?decY, ?rsub, ?rsubC⟩
  case incY => exact condCompute_adder (by decide) rfl (by simp [exactSum, Y]) (by simp [Y])
  case addC => exact condCompute_adder (by decide) rfl rfl Iff.rfl
  case add => exact condCompute_adder (by decide) rfl (by simp [exactSum, X, Y]) (by simp [X, Y])
  case negY =>
    exact condCompute_adder (by decide) rfl (exactSum_not 0 Y) ((carry_not_iff 0 Y true).trans (by simp))
  case subC => exact condCompute_adder (by decide) rfl (exactSum_not_carry X Y _) (carry_not_iff X Y _)
  case sub =>
    exact condCompute_adder (by decide) rfl (exactSum_not X Y) ((carry_not_iff X Y true).trans (by simp))
  case decY =>
    exact condCompute_adder (by decide) rfl (by simp [exactSum, Y, Int.sub_eq_add_neg]) (by simp [Y])
  case rsub =>
    exact condCompute_adder (by decide) rfl (exactSum_not Y X) ((carry_not_iff Y X true).trans (by simp))
  case rsubC => exact condCompute_adder (by decide) rfl (exactSum_not_carry Y X _) (carry_not_iff Y X _)

/-! ## The six logic functions (R113, R116, R120, R127 to R130) -/

theorem ofFnLE_of_getLsbD {r : Word} {bit : Fin 16 → Bool} (h : ∀ k : Fin 16, r.getLsbD k = bit k) :
    BitVec.ofFnLE bit = r := by
  apply BitVec.eq_of_getLsbD_eq
  intro k hk
  rw [BitVec.getLsbD_ofFnLE, dif_pos hk]
  exact (h ⟨k, hk⟩).symm

theorem condCompute_logic {f : AluFn} {z : Bool} {y : Yop} {x : Xop} {c : Cond} {s : State} {r : Word}
    {bit : Fin 16 → Bool} (hf : f ≠ .absX)
    (ho : aluOut f (aluX s.bank x) (aluY s.bank y) (s.astat.getLsbD Flag.ac) = logicOut r)
    (hr : ∀ k : Fin 16, r.getLsbD k = bit k) :
    condCompute (.alu f) z y x c s = .next (gated c (logical z (BitVec.ofFnLE bit)) s) :=
  condCompute_alu_eq_gated ho fun u hu => by
    rw [ofFnLE_of_getLsbD hr, signFlag, if_neg hf, ← hu]
    rfl

/-- Settles O13: each function acts bit by bit. -/
theorem aluLogic : Obligations.AluLogic := by
  intro z y x c s X Y does
  refine ⟨?passY, ?notY, ?notX, ?andXY, ?orXY, ?xorXY⟩
  case passY => exact condCompute_logic (by decide) rfl fun _ => rfl
  case notY => exact condCompute_logic (by decide) rfl fun k => by simp [Y]
  case notX => exact condCompute_logic (by decide) rfl fun k => by simp [X]
  case andXY => exact condCompute_logic (by decide) rfl fun _ => BitVec.getLsbD_and
  case orXY => exact condCompute_logic (by decide) rfl fun _ => BitVec.getLsbD_or
  case xorXY => exact condCompute_logic (by decide) rfl fun _ => BitVec.getLsbD_xor

/-! ## The absolute value (R131) -/

theorem absOut_r (x : Word) : (absOut x).r = BitVec.ofNat 16 x.toInt.natAbs := by
  rw [absOut, BitVec.msb_eq_toInt, ← BitVec.ofInt_natCast]
  by_cases hx : x.toInt < 0
  · have habs : -x.toInt = x.toInt.natAbs := by omega
    simp only [hx, decide_true, if_true, habs]
  · have habs : (x.toInt.natAbs : Int) = x.toInt := by omega
    simp only [hx, decide_false, habs, BitVec.ofInt_toInt]
    rfl

/-- Only -32768 has a magnitude that is no 16-bit signed number. -/
theorem absOut_ovf (x : Word) : (absOut x).ovf = decide (x.toInt = -32768) := by
  have hx := x.isLt
  change (absOut x).r.msb = _
  rw [absOut_r, BitVec.msb_eq_decide, BitVec.toNat_ofNat, BitVec.toInt_eq_toNat_cond, decide_eq_decide]
  omega

/-- Settles O14: the magnitude, and `AS` the sign of the operand. -/
theorem aluAbsolute : Obligations.AluAbsolute := by
  intro z y x c s X
  refine condCompute_alu_eq_gated (o := absOut X) rfl fun u _ => ?_
  rw [absOut_r, absOut_ovf, signFlag, if_pos rfl, BitVec.msb_eq_toInt]
  rfl

/-! ## The divide steps (R132, R133) -/

theorem setFlag_eq_putBit (f : BitVec 8) (k : Nat) (b : Bool) : setFlag f k b = putBit f k b := by
  apply BitVec.eq_of_getLsbD_eq
  intro j hj
  rw [setFlag, BitVec.getLsbD_ofFnLE, dif_pos hj, getLsbD_putBit]
  simp only [hj, and_true]

/-- A shift left by one bit, the bit `b` coming in: the double and the bit. -/
theorem cat_shift_in (r : Word) (b : BitVec 1) :
    cat (r.extractLsb' 0 15) b = BitVec.ofNat 16 (2 * r.toNat + b.toNat) := by
  have hr := r.isLt
  have hb := b.isLt
  apply BitVec.eq_of_toNat_eq
  rw [toNat_cat, BitVec.extractLsb'_toNat, BitVec.toNat_ofNat]
  omega

theorem toNat_top_bit (v : Word) : (v.extractLsb' 15 1).toNat = v.toNat / 32768 := by
  have hv := v.isLt
  rw [BitVec.extractLsb'_toNat, Nat.shiftRight_eq_div_pow]
  omega

/-- A divide step in integers: the partial remainder and the dividend doubled, each with the bit it takes
in. -/
theorem divShift_eq (r : Word) (qbit aq : Bool) (s : State) :
    divShift r qbit aq s =
      let b := s.bank
      (s.setBank { b with af := BitVec.ofNat 16 (2 * r.toNat + b.ay0.toNat / 32768),
                          ay0 := BitVec.ofNat 16 (2 * b.ay0.toNat + qbit.toNat) }).setAstat
        (setFlag s.astat 5 aq) := by
  simp only [divShift, cat_shift_in, toNat_top_bit, BitVec.toNat_ofBool, setFlag_eq_putBit]
  rfl

/-- The new partial remainder of `DIVQ`: the sum or the difference of the signed numbers, by `AQ`. -/
theorem divq_remainder (aq : Bool) (af x : Word) :
    BitVec.ofInt 16 (if aq then af.toInt + x.toInt else af.toInt - x.toInt) = if aq then af + x else af - x := by
  cases aq
  · simp [Int.sub_eq_add_neg, BitVec.ofInt_add, BitVec.ofInt_neg, BitVec.sub_eq_add_neg]
  · simp [BitVec.ofInt_add]

/-- Settles O15: both are a divide step, of the Y operand and of the new partial remainder. -/
theorem divideSteps : Obligations.DivideSteps := by
  intro y x s X Y b q r p
  refine ⟨congrArg Host.Outcome.next (divShift_eq Y q q s), ?_⟩
  simp only [exec, execDivq, ← divq_remainder]
  exact congrArg Host.Outcome.next (divShift_eq r (!p) p s)

end Sys2Proof.Machine
end

section
/-! PROOFS. The MAC (R140 to R161): the fifteen functions as the exact sums the statements give, the clamp of
`SAT MR`, and the encodings that do nothing (R145, R240): MacProducts, MacRounded, SaturateClamps,
NoOperation. -/

namespace Sys2Proof.Machine

open Sys2Proof.Claims

/-! ## A MAC function under its condition (R140, R144) -/

/-- `MV`: bits 39 to 31 are all equal exactly when the signed value fits in 32 bits. -/
theorem mvOf_eq_decide (r : BitVec 40) :
    mvOf r = decide (r.toInt < -2147483648 ∨ 2147483647 < r.toInt) := by
  have hr := r.isLt
  have hones : (BitVec.allOnes 9).toNat = 511 := rfl
  rw [Bool.eq_iff_iff, decide_eq_true_eq, mvOf, Bool.and_eq_true, bne_iff_ne, bne_iff_ne, ne_eq, ne_eq,
    ← BitVec.toNat_inj, ← BitVec.toNat_inj, BitVec.extractLsb'_toNat, Nat.shiftRight_eq_div_pow, hones,
    BitVec.toInt_eq_toNat_cond]
  change ¬ _ = 0 ∧ _ ↔ _
  omega

theorem macOp_eq_macResult {f : MacFn} (hf : f ≠ .nop) (z : Bool) (y : Yop) (x : Xop) (s : State) :
    macOp f z y x s = macResult z (macOut f s.bank.mr (macX s.bank x) (macY s.bank y)) s := by
  rw [macResult, ← mvOf_eq_decide, setFlag_eq_putBit]
  cases f with
  | nop => exact absurd rfl hf
  | _ => rfl

/-- What is to be proved of a MAC function is the 40-bit result of its operands. -/
theorem condCompute_mac {f : MacFn} {z : Bool} {y : Yop} {x : Xop} {c : Cond} {s : State} {r : BitVec 40}
    (hf : f ≠ .nop) (hr : macOut f s.bank.mr (macX s.bank x) (macY s.bank y) = r) :
    condCompute (.mac f) z y x c s = .next (gated c (macResult z r) s) :=
  condDo_eq_gated fun v => by
    rw [← hr]
    exact macOp_eq_macResult hf z y x (s.setCntr v)

/-! ## The twelve unrounded functions (R149 to R160) -/

theorem macOut_of_not_rounds {f : MacFn} (hf : macRounds f = false) (mr : BitVec 40) (x y : Word) :
    macOut f mr x y = BitVec.ofInt 40 (macSum f mr x y) := by
  simp only [macOut, hf, Bool.false_eq_true, if_false]

/-- A function that does not round leaves its sum modulo 2^40. -/
theorem condCompute_macSum {f : MacFn} {z : Bool} {y : Yop} {x : Xop} {c : Cond} {s : State} {v : Int}
    (hf : f ≠ .nop) (hround : macRounds f = false)
    (hv : macSum f s.bank.mr (macX s.bank x) (macY s.bank y) = v) :
    condCompute (.mac f) z y x c s = .next (gated c (macResult z (BitVec.ofInt 40 v)) s) :=
  condCompute_mac hf (by rw [macOut_of_not_rounds hround, hv])

/-- Settles O16: each function is its sum, the operands read in its format. -/
theorem macProducts : Obligations.MacProducts := by
  intro z y x c s A xs xu ys yu does
  refine ⟨?mulSS, ?mulSU, ?mulUS, ?mulUU, ?addSS, ?addSU, ?addUS, ?addUU, ?subSS, ?subSU, ?subUS, ?subUU⟩
  all_goals exact condCompute_macSum (by decide) rfl rfl

/-! ## The three rounded functions (R143, R146 to R148) -/

/-- Clearing bit 16 leaves the 23 bits above it and the 16 below. -/
theorem putBit_16_false (r : BitVec 40) :
    putBit r 16 false = cat (r.extractLsb' 17 23) (cat 0#1 (r.extractLsb' 0 16)) := by
  apply BitVec.eq_of_getLsbD_eq
  intro j hj
  rw [getLsbD_putBit, getLsbD_cat, getLsbD_cat]
  by_cases hlo : j < 16
  · simp [-BitVec.getLsbD_eq_getElem, hlo, show j < 17 by omega, show j ≠ 16 by omega]
  · by_cases heq : j = 16
    · simp [heq]
    · simp [-BitVec.getLsbD_eq_getElem, heq, hj, show ¬ j < 17 by omega, show j - 17 < 23 by omega,
        show 17 + (j - 17) = j by omega]

theorem toNat_putBit_16_false (r : BitVec 40) :
    (putBit r 16 false).toNat = r.toNat / 131072 * 131072 + r.toNat % 65536 := by
  have hr := r.isLt
  rw [putBit_16_false, toNat_cat, toNat_cat, BitVec.extractLsb'_toNat, BitVec.extractLsb'_toNat,
    Nat.shiftRight_eq_div_pow, BitVec.toNat_ofNat]
  omega

/-- The low 16 bits of a sum say that it is a tie. -/
theorem ofInt_eq_half_iff (v : Int) : BitVec.ofInt 16 v = 0x8000 ↔ v % 65536 = 32768 := by
  rw [← BitVec.toNat_inj, BitVec.toNat_ofInt]
  change (v % 65536).toNat = 32768 ↔ _
  omega

/-- Adding one half carries into bit 16 from a half up; at a tie the cleared bit 16 makes the sum even. -/
theorem macRound_eq_roundedHalfEven (v : Int) : macRound v = roundedHalfEven v := by
  apply BitVec.eq_of_toNat_eq
  simp only [macRound, roundedHalfEven, ofInt_eq_half_iff, toNat_cat, BitVec.toNat_ofInt]
  by_cases htie : v % 65536 = 32768
  · rw [if_pos htie, toNat_putBit_16_false, BitVec.toNat_ofInt]
    split <;> omega
  · rw [if_neg htie, BitVec.toNat_ofInt]
    split <;> omega

/-- Settles O17: each function is its sum, rounded. -/
theorem macRounded : Obligations.MacRounded := by
  intro z y x c s A P
  exact ⟨condCompute_mac (by decide) (macRound_eq_roundedHalfEven _),
    condCompute_mac (by decide) (macRound_eq_roundedHalfEven _),
    condCompute_mac (by decide) (macRound_eq_roundedHalfEven _)⟩

/-! ## The saturation of MR (R161) -/

/-- The 32-bit limit on the side of the sign of a 40-bit value. -/
def limitOf (r : BitVec 40) : BitVec 40 := BitVec.ofInt 40 (if r.toInt < 0 then -2147483648 else 2147483647)

theorem toInt_limitOf (r : BitVec 40) :
    (limitOf r).toInt = if r.toInt < 0 then -2147483648 else 2147483647 := by
  unfold limitOf
  split <;> rfl

theorem exec_satMr (s : State) : exec .satMr s = .next (if s.astat.getLsbD Flag.mv then
    s.setBank { s.bank with mr := limitOf s.bank.mr } else s) := by
  have hlimit : (if s.bank.mr.msb then Config.mrSatNeg else 0x007FFFFFFF) = limitOf s.bank.mr := by
    rw [BitVec.msb_eq_toInt, limitOf]
    by_cases h : s.bank.mr.toInt < 0
    · simp only [h, decide_true, if_true]
      rfl
    · simp only [h, decide_false, if_false]
      rfl
  rw [← hlimit]
  rfl

theorem exec_ccInstr (f : Amf) (z : Bool) (y : Yop) (x : Xop) (c : Cond) :
    exec (ccInstr f z y x c) = condCompute f z y x c := by
  cases f with
  | mac f => cases f <;> rfl
  | alu f => cases f <;> rfl

theorem macResult_mr (r : BitVec 40) (s : State) : (macResult false r s).bank.mr = r := by
  simp [macResult]

theorem macResult_mv (z : Bool) (r : BitVec 40) (s : State) : (macResult z r s).astat.getLsbD Flag.mv =
    decide (r.toInt < -2147483648 ∨ 2147483647 < r.toInt) := by
  rw [macResult, State.setAstat_astat, setFlag_eq_putBit, getLsbD_putBit]
  exact if_pos ⟨rfl, by decide⟩

/-- An unconditional MAC operation into `MR`. -/
theorem exec_mac_always {f : MacFn} (hf : f ≠ .nop) (y : Yop) (x : Xop) (s : State) :
    exec (ccInstr (.mac f) false y x .always) s =
      .next (macResult false (macOut f s.bank.mr (macX s.bank x) (macY s.bank y)) s) := by
  rw [exec_ccInstr]
  exact condCompute_mac hf rfl

/-- Where `MV` says whether `MR` fits in 32 signed bits, `SAT MR` clamps it. -/
theorem exec_satMr_clamps {u : State}
    (hmv : u.astat.getLsbD Flag.mv = decide (u.bank.mr.toInt < -2147483648 ∨ 2147483647 < u.bank.mr.toInt)) :
    ∃ t, exec .satMr u = .next t ∧ t.bank.mr.toInt = max (-2147483648) (min 2147483647 u.bank.mr.toInt) := by
  refine ⟨_, exec_satMr u, ?_⟩
  by_cases hout : u.bank.mr.toInt < -2147483648 ∨ 2147483647 < u.bank.mr.toInt
  · rw [if_pos (by rw [hmv, decide_eq_true hout]), State.setBank_bank, toInt_limitOf]
    split <;> omega
  · rw [if_neg (by rw [hmv, decide_eq_false hout]; decide)]
    omega

/-- Settles O18: `MV` as the MAC operation leaves it is what `SAT MR` reads. -/
theorem saturateClamps : Obligations.SaturateClamps := by
  refine ⟨exec_satMr, fun f y x s hf => ?_⟩
  obtain ⟨t, ht, hclamp⟩ := exec_satMr_clamps
    (u := macResult false (macOut f s.bank.mr (macX s.bank x) (macY s.bank y)) s)
    (by rw [macResult_mv, macResult_mr])
  exact ⟨_, t, exec_mac_always hf y x s, ht, hclamp⟩

/-! ## No operation (R145, R240) -/

theorem opField_cat_primary (p : BitVec 8) (v : BitVec 16) : opField (cat p v) 16 8 = p := by
  rw [opField, extract_cat_hi _ _ (Nat.le_refl 16)]
  exact BitVec.extractLsb'_eq_self

/-- A word with a single opcode is decoded by that opcode. -/
theorem decodeWord_cat_low {p : BitVec 8} (hp : p.toNat < 0x12) (v : BitVec 16) :
    decodeWord (cat p v) = decodeLow (cat p v) :=
  decodeWord_low (by rwa [primary, opField_cat_primary])

/-- The words of `NOP` and of three reserved opcodes: the 16 bits below the opcode are not read. -/
theorem decodeWord_nop_reserved (v : BitVec 16) :
    decodeWord (cat 0x00#8 v) = .nop ∧ decodeWord (cat 0x01#8 v) = .reserved01 ∧
      decodeWord (cat 0x03#8 v) = .reserved03 ∧ decodeWord (cat 0x08#8 v) = .reserved08 := by
  refine ⟨?nop, ?reserved01, ?reserved03, ?reserved08⟩
  all_goals
    rw [decodeWord_cat_low (by decide)]
    simp only [decodeLow, opField_cat_primary]
    rfl

/-- Opcode `0x02` is reserved where its bit 15 is 0. -/
theorem decodeWord_reserved02 (v : BitVec 15) : decodeWord (cat 0x02#8 (cat 0#1 v)) = .reserved02 := by
  have h15 : opField (cat 0x02#8 (cat 0#1 v)) 15 1 = 0#1 := by
    simp [opField]
  rw [decodeWord_cat_low (by decide)]
  simp only [decodeLow, opField_cat_primary, h15]
  rfl

/-- Settles O39: the reserved opcodes execute as `NOP`, and the MAC no operation is an empty effect under its
condition. -/
theorem noOperation : Obligations.NoOperation := by
  refine ⟨fun s i hi => ?_, decodeWord_nop_reserved, decodeWord_reserved02,
    fun z y x c s => condDo_eq_gated fun _ => rfl⟩
  fin_cases hi <;> rfl

end Sys2Proof.Machine
end

section
/-! PROOFS. The barrel shifter (R170 to R194): the conditional and the immediate shifts as a field placed bit
by bit, the exponent functions as a count of redundant sign bits, normalization after an exponent, and an
operation with a register move beside it: ConditionalShifts, ImmediateShifts, ExponentDetection,
NormalizeAfterExponent, RegisterMoveAlongside. -/

namespace Sys2Proof.Machine

open Sys2Proof.Claims

/-! ## A shifted number, bit by bit (R171) -/

theorem shL_toInt {w : Nat} (X : BitVec w) {n : Nat} (hn : n < 32) :
    shL X.toInt n = X.signExtend 32 <<< n := by
  have hpow : BitVec.ofInt 32 (2 ^ n) = BitVec.twoPow 32 n := by
    apply BitVec.eq_of_toNat_eq
    rw [BitVec.toNat_twoPow, BitVec.toNat_ofInt]
    norm_cast
  rw [shL, if_pos hn, BitVec.ofInt_mul, hpow, BitVec.shiftLeft_eq_mul_twoPow, BitVec.signExtend]

theorem shR_toInt {w : Nat} (X : BitVec w) (n : Nat) :
    shR X.toInt n = (X.sshiftRight n).signExtend 32 := by
  rw [shR, BitVec.signExtend, BitVec.toInt_sshiftRight, Int.shiftRight_eq_div_pow]
  norm_cast

/-- Bit `p` of the signed number `X`, with its sign above its top bit. -/
def signedBit {w : Nat} (X : BitVec w) (p : Nat) : Bool := if p < w then X.getLsbD p else X.msb

theorem getLsbD_sh {w : Nat} (X : BitVec w) (k : Int) {j : Nat} (hj : j < 32) :
    (sh X.toInt k).getLsbD j = if j - k < 0 then false else signedBit X (j - k).toNat := by
  by_cases hk : 0 ≤ k
  · rw [sh, if_pos hk]
    by_cases hlow : j - k < 0
    · rw [if_pos hlow]
      by_cases hn : k.toNat < 32
      · simp [shL_toInt X hn, show j < k.toNat by omega]
      · simp [shL, hn]
    · rw [if_neg hlow, shL_toInt X (by omega), show (j - k).toNat = j - k.toNat by omega]
      simp [-BitVec.getLsbD_eq_getElem, BitVec.getLsbD_signExtend, signedBit, hj, show k ≤ j by omega,
        show j - k.toNat < 32 by omega]
  · rw [sh, if_neg hk, if_neg (by omega), shR_toInt, BitVec.getLsbD_signExtend, BitVec.getLsbD_sshiftRight,
      BitVec.msb_sshiftRight, show (j - k).toNat = (-k).toNat + j by omega, signedBit]
    by_cases hw : j < w
    · simp [-BitVec.getLsbD_eq_getElem, hj, hw]
    · simp [-BitVec.getLsbD_eq_getElem, hj, hw, show ¬ (-k).toNat + j < w by omega]

/-- `x` at bit `m`, zeros below it and the sign `fill` above it. -/
def extended (x : Word) (fill : Bool) (m : Nat) : BitVec (1 + (16 + m)) :=
  cat (BitVec.ofBool fill) (cat x 0#m)

theorem toInt_extended (x : Word) (fill : Bool) (m : Nat) :
    (extended x fill m).toInt = (x.toNat - if fill then 65536 else 0) * 2 ^ m := by
  rw [extended, cat, BitVec.toInt_append, toNat_cat, BitVec.toInt_ofBool]
  cases fill
  · simp
  · simp
    ring

theorem signedBit_extended (x : Word) (fill : Bool) (m p : Nat) :
    signedBit (extended x fill m) p =
      if p < m then false else if p - m < 16 then x.getLsbD (p - m) else fill := by
  have hmsb : (extended x fill m).msb = fill := by
    rw [extended, cat, BitVec.msb_append]
    cases fill <;> rfl
  rw [signedBit, hmsb, extended, getLsbD_cat, getLsbD_cat]
  by_cases hlow : p < m
  · simp [hlow, show p < 1 + (16 + m) by omega, show p < 16 + m by omega]
  · by_cases hmid : p - m < 16
    · simp [hlow, hmid, show p < 1 + (16 + m) by omega, show p < 16 + m by omega]
    · by_cases htop : p < 1 + (16 + m)
      · simp [hlow, hmid, show ¬ p < 16 + m by omega, show p - (16 + m) = 0 by omega]
      · simp [hlow, hmid, htop]

theorem getLsbD_placed (x : Word) (fill : Bool) (pos : Int) {j : Nat} (hj : j < 32) :
    (placed x fill pos).getLsbD j =
      if j - pos < 0 then false else if j - pos < 16 then x.getLsbD (j - pos).toNat else fill := by
  rw [placed, BitVec.getLsbD_ofFnLE, dif_pos hj]

/-- A shifted operand, read with the sign `fill`, is the field with the operand at its place. -/
theorem sh_eq_placed {x : Word} {fill : Bool} {m : Nat} {v k pos : Int}
    (hv : v = (x.toNat - if fill then 65536 else 0) * 2 ^ m) (hpos : pos = m + k) :
    sh v k = placed x fill pos := by
  subst hpos
  rw [hv, ← toInt_extended]
  apply BitVec.eq_of_getLsbD_eq
  intro j hj
  rw [getLsbD_sh _ _ hj, signedBit_extended, getLsbD_placed _ _ _ hj]
  by_cases hneg : j - k < 0
  · rw [if_pos hneg, if_pos (by omega)]
  · have hlow : ((j - k).toNat < m) = (j - (m + k) < 0) := propext (by omega)
    have hat : (j - k).toNat - m = (j - (m + k)).toNat := by omega
    have hmid : ((j - (m + k)).toNat < 16) = (j - (m + k) < 16) := propext (by omega)
    rw [if_neg hneg]
    simp only [hlow, hat, hmid]

/-- Above bit 15 the sign fills nothing that is in the field. -/
theorem placed_fill {pos : Int} (hpos : 16 ≤ pos) (x : Word) (a b : Bool) : placed x a pos = placed x b pos := by
  unfold placed
  congr 1
  funext j
  have : (j.val : Int) - pos < 16 := by omega
  simp [this]

/-! ## The fields of the shift functions (R172 to R183) -/

theorem lshiftHi_eq (x : Word) (k : Int) : lshiftHi x k = placed x false (16 + k) :=
  sh_eq_placed (m := 16) (by simp) rfl

theorem lshiftLo_eq (x : Word) (k : Int) : lshiftLo x k = placed x false k :=
  sh_eq_placed (m := 0) (by simp) (by simp)

/-- A signed operand is the unsigned one with its own top bit for the sign. -/
theorem toInt_eq_toNat_sub_sign (x : Word) : x.toInt = x.toNat - if x.msb then 65536 else 0 := by
  rw [BitVec.toInt_eq_msb_cond]
  split <;> simp

theorem ashiftHi_eq (x : Word) (k : Int) : ashiftHi x k = placed x x.msb (16 + k) :=
  sh_eq_placed (m := 16) (by rw [toInt_eq_toNat_sub_sign]) rfl

theorem ashiftLo_eq (x : Word) (k : Int) : ashiftLo x k = placed x x.msb k :=
  sh_eq_placed (m := 0) (by rw [toInt_eq_toNat_sub_sign, pow_zero, mul_one]) (by simp)

/-- A left shift by `NORM` is one by `LSHIFT`; a right shift is one of the number with `AC` for its sign. -/
theorem normHi_eq (x : Word) (k : Int) (ac : Bool) : normHi x k ac = placed x ac (16 - k) := by
  by_cases hk : 0 ≤ -k
  · calc normHi x k ac = lshiftHi x (-k) := (if_pos hk).trans (if_pos hk).symm
      _ = placed x ac (16 - k) := by rw [lshiftHi_eq, placed_fill (by omega) x false ac, Int.sub_eq_add_neg]
  · calc normHi x k ac = sh (extended x ac 16).toInt (-k) := (if_neg hk).trans (if_neg hk).symm
      _ = placed x ac (16 - k) := sh_eq_placed (m := 16) (toInt_extended x ac 16) rfl

theorem normLo_eq (x : Word) (k : Int) : normLo x k = placed x false (-k) := lshiftLo_eq x (-k)

/-- Whether a function ORs its field into `SR`, and the field, for the input `v` and the code `k` (R172 to
R183); the exponent functions write no field. -/
def srField (f : ShiftFn) (v : Word) (ac : Bool) (k : Int) : Option (Bool × BitVec 32) :=
  match f with
  | .lshiftHi => some (false, placed v false (16 + k))
  | .lshiftHiOr => some (true, placed v false (16 + k))
  | .lshiftLo => some (false, placed v false k)
  | .lshiftLoOr => some (true, placed v false k)
  | .ashiftHi => some (false, placed v v.msb (16 + k))
  | .ashiftHiOr => some (true, placed v v.msb (16 + k))
  | .ashiftLo => some (false, placed v v.msb k)
  | .ashiftLoOr => some (true, placed v v.msb k)
  | .normHi => some (false, placed v ac (16 - k))
  | .normHiOr => some (true, placed v ac (16 - k))
  | .normLo => some (false, placed v false (-k))
  | .normLoOr => some (true, placed v false (-k))
  | .expHi | .expHix | .expLo | .expAdj => none

/-! `srField` says what `shiftOp` does. -/

theorem putSr_eq (r : BitVec 32) (s : State) : putSr r s = withSr false r s := rfl

theorem orSr_eq (r : BitVec 32) (s : State) : orSr r s = withSr true r s := rfl

theorem shiftOp_srField {f : ShiftFn} {x : Xop} {k : Int} {s : State} {acc : Bool} {r : BitVec 32}
    (h : srField f (shiftX s.bank x) (s.astat.getLsbD Flag.ac) k = some (acc, r)) :
    shiftOp f x k s = withSr acc r s := by
  cases f with
  | expHi | expHix | expLo | expAdj => cases h
  | _ =>
    cases h
    simp only [shiftOp, putSr_eq, orSr_eq, lshiftHi_eq, lshiftLo_eq, ashiftHi_eq, ashiftLo_eq, normHi_eq,
      normLo_eq]

/-- A conditional shift reads nothing that its condition changes. -/
theorem condShift_eq_gated {f : ShiftFn} {x : Xop} {c : Cond} {s : State} {k : State → State}
    (h : ∀ v, shiftOp f x (seCode s) (s.setCntr v) = k (s.setCntr v)) :
    condShift f x c s = .next (gated c k s) :=
  condDo_eq_gated (k := fun u => shiftOp f x (seCode u) u) h

theorem condShift_srField {f : ShiftFn} {x : Xop} {c : Cond} {s : State} {acc : Bool} {r : BitVec 32}
    (h : srField f (shiftX s.bank x) (s.astat.getLsbD Flag.ac) (seCode s) = some (acc, r)) :
    condShift f x c s = .next (gated c (withSr acc r) s) :=
  condShift_eq_gated fun v => shiftOp_srField (s := s.setCntr v) h

/-- Settles O19: each function by its row of `srField`. -/
theorem conditionalShifts : Obligations.ConditionalShifts := by
  intro x c s v k ac does
  refine ⟨?lshiftHi, ?lshiftHiOr, ?lshiftLo, ?lshiftLoOr, ?ashiftHi, ?ashiftHiOr, ?ashiftLo, ?ashiftLoOr,
    ?normHi, ?normHiOr, ?normLo, ?normLoOr⟩
  all_goals exact condShift_srField rfl

/-! ## The immediate shifts (R189) -/

theorem immShift_srField {f : ShiftFn} {x : Xop} {e : BitVec 8} {s : State} {acc : Bool} {r : BitVec 32}
    (h : srField f (shiftX s.bank x) (s.astat.getLsbD Flag.ac) e.toInt = some (acc, r)) :
    immShift f x e s = .next (withSr acc r s) :=
  congrArg Host.Outcome.next (shiftOp_srField h)

/-- The eight codes in their order. -/
theorem shiInstr_eq_getD {sf : BitVec 4} (h : sf.getLsbD 3 = false) (x : Xop) (e : BitVec 8) :
    shiInstr sf x e = [Instr.lshiftHiBy, .lshiftHiOrBy, .lshiftLoBy, .lshiftLoOrBy, .ashiftHiBy,
      .ashiftHiOrBy, .ashiftLoBy, .ashiftLoOrBy].getD sf.toNat .lshiftHiBy x e := by
  have hlt : sf.toNat < 8 := by revert sf; decide
  unfold shiInstr
  interval_cases sf.toNat <;> rfl

/-- The bit below the opcode is not read (R85). -/
theorem decodeWord_shi (b : BitVec 1) (sf : BitVec 4) (x : BitVec 3) (e : BitVec 8) :
    decodeWord (cat 0x0F#8 (cat b (cat sf (cat x e)))) = shiInstr sf (Xop.ofCode x) e := by
  rw [decodeWord_cat_low (by decide)]
  simp [decodeLow, opField]

/-- Settles O20: each function by its row of `srField`, each word by its code. -/
theorem immediateShifts : Obligations.ImmediateShifts := by
  refine ⟨fun x e s => ?_, fun _ _ _ _ => rfl, fun b sf x e => ?_⟩
  · refine ⟨?lshiftHi, ?lshiftHiOr, ?lshiftLo, ?lshiftLoOr, ?ashiftHi, ?ashiftHiOr, ?ashiftLo, ?ashiftLoOr⟩
    all_goals exact immShift_srField rfl
  · rw [decodeWord_shi]
    cases h : sf.getLsbD 3 with
    | false => exact shiInstr_eq_getD h _ _
    | true => exact shiInstr_reserved h _ _

/-! ## Redundant sign bits (R184 to R187) -/

/-- The count bit by bit downward is the count over the list of bits. -/
theorem runLength_eq_takeWhile (x : Word) (b : Bool) (n : Nat) :
    ((List.range n).takeWhile fun k => x.getLsbD (n - 1 - k) == b).length = runLength x b n := by
  induction n with
  | zero => rfl
  | succ n ih =>
    rw [List.range_succ_eq_map, List.takeWhile_cons, List.takeWhile_map, runLength]
    by_cases hb : x.getLsbD n = b
    · have htail : (fun k => x.getLsbD (n - k) == b) ∘ Nat.succ = fun k => x.getLsbD (n - 1 - k) == b := by
        funext k
        simp only [Function.comp_apply, Nat.succ_eq_add_one, show n - (k + 1) = n - 1 - k by omega]
      simp [hb, htail, ih]
    · simp [hb]

theorem runDown_eq_runLength (x : Word) (b : Bool) (top : Nat) : runDown x b top = runLength x b (top + 1) :=
  runLength_eq_takeWhile x b (top + 1)

theorem redundant_eq_red (x : Word) : redundant x = red x := runDown_eq_runLength x x.msb 14

/-- Settles O21: the same count of sign bits, and the same flag and cells. -/
theorem exponentDetection : Obligations.ExponentDetection := by
  intro x c s v n hi
  have hn : (red v : Int) = n := congrArg Nat.cast (redundant_eq_red v).symm
  have hhi : ∀ u, expHi v u = hi u := fun u => by
    simp only [expHi, hi, setFlag_eq_putBit, ← hn]
    rfl
  refine ⟨?expHi, ?expHix, ?expLo, ?expAdj⟩
  case expHi => exact condShift_eq_gated fun w => hhi _
  case expHix =>
    refine condShift_eq_gated fun w => ?_
    rw [← hhi, setFlag_eq_putBit]
    rfl
  case expLo =>
    refine condShift_eq_gated fun w => ?_
    rw [runDown_eq_runLength]
    rfl
  case expAdj =>
    refine condShift_eq_gated fun w => ?_
    rw [← hn]
    rfl

/-! ## Normalization after an exponent (R180, R184) -/

/-- The bits counted are `b`. -/
theorem getLsbD_of_runLength {x : Word} {b : Bool} {n j : Nat} (hlo : n - runLength x b n ≤ j) (hhi : j < n) :
    x.getLsbD j = b := by
  induction n with
  | zero => omega
  | succ n ih =>
    rw [runLength] at hlo
    split at hlo
    case isTrue hb =>
      by_cases hj : j = n
      · rw [hj, hb]
      · exact ih (by omega) (by omega)
    case isFalse => omega

/-- The bit that ends the count is not `b`. -/
theorem getLsbD_ne_of_runLength {x : Word} {b : Bool} {n j : Nat} (h : j + 1 + runLength x b n = n) :
    x.getLsbD j ≠ b := by
  induction n with
  | zero => omega
  | succ n ih =>
    rw [runLength] at h
    split at h
    case isTrue => exact ih (by omega)
    case isFalse hb => rwa [show j = n by omega]

/-- From the last redundant bit up, every bit is the sign. -/
theorem getLsbD_eq_msb_of_red {x : Word} {j : Nat} (hlo : 15 - red x ≤ j) (hhi : j < 16) :
    x.getLsbD j = x.msb := by
  by_cases hj : j = 15
  · rw [hj, BitVec.msb_eq_getLsbD_last]
  · exact getLsbD_of_runLength hlo (by omega)

/-- A number is that of its bits below the redundant ones, sign included. -/
theorem signExtend_setWidth_red (x : Word) : (x.setWidth (15 - red x + 1)).signExtend 16 = x := by
  apply BitVec.eq_of_getLsbD_eq
  intro j hj
  have hmsb : (x.setWidth (15 - red x + 1)).msb = x.msb := by
    rw [BitVec.msb_eq_getLsbD_last, BitVec.getLsbD_setWidth, getLsbD_eq_msb_of_red (by omega) (by omega)]
    simp
  rw [BitVec.getLsbD_signExtend, hmsb, BitVec.getLsbD_setWidth]
  by_cases hlow : j < 15 - red x + 1
  · simp [-BitVec.getLsbD_eq_getElem, hj, hlow]
  · simp [-BitVec.getLsbD_eq_getElem, hj, hlow, getLsbD_eq_msb_of_red (x := x) (j := j) (by omega) hj]

theorem toInt_bounds_red (x : Word) : -2 ^ (15 - red x) ≤ x.toInt ∧ x.toInt < 2 ^ (15 - red x) := by
  have hx : (x.setWidth (15 - red x + 1)).toInt = x.toInt := by
    rw [← BitVec.toInt_signExtend_of_le (v := 16) (by omega), signExtend_setWidth_red]
  rw [← hx]
  exact ⟨BitVec.le_toInt _, BitVec.toInt_lt⟩

/-- With a code from 0 down `NORM (HI)` shifts left, whatever `AC` is. -/
theorem normHi_red (x : Word) (ac : Bool) :
    normHi x (-red x) ac = placed x x.msb (16 + red x) := by
  rw [normHi_eq, placed_fill (by omega) x ac x.msb]
  simp

/-- The number and its redundant bits fill the 32 bits exactly: nothing is lost. -/
theorem toInt_normHi_red (x : Word) (ac : Bool) :
    (normHi x (-red x) ac).toInt = x.toInt * 2 ^ (16 + red x) := by
  obtain ⟨hlo, hhi⟩ := toInt_bounds_red x
  have hle := red_le x
  have hpos : (0 : Int) < 2 ^ (16 + red x) := by positivity
  have hpow : (2 : Int) ^ 31 = 2 ^ (15 - red x) * 2 ^ (16 + red x) := by
    rw [← pow_add, show 15 - red x + (16 + red x) = 31 by omega]
  have hsh : ashiftHi x (red x) = BitVec.ofInt 32 (x.toInt * 2 ^ (16 + red x)) := by
    rw [ashiftHi, sh, if_pos (by omega), shL, if_pos (by omega), Int.toNat_natCast, mul_assoc, ← pow_add]
  rw [normHi_red, ← ashiftHi_eq, hsh, BitVec.toInt_ofInt_eq_self (by decide)]
  · rw [hpow, ← neg_mul]
    exact mul_le_mul_of_nonneg_right hlo hpos.le
  · rw [hpow]
    exact mul_lt_mul_of_pos_right hhi hpos

/-- After normalization one sign bit is left. -/
theorem normHi_red_top_bits {x : Word} (hx : x ≠ 0) (ac : Bool) :
    (normHi x (-red x) ac).getLsbD 31 ≠ (normHi x (-red x) ac).getLsbD 30 := by
  have hle := red_le x
  have htop : (normHi x (-red x) ac).getLsbD 31 = x.msb := by
    rw [normHi_red, getLsbD_placed _ _ _ (by decide), if_neg (by omega), if_pos (by omega)]
    exact getLsbD_eq_msb_of_red (by omega) (by omega)
  rw [htop, normHi_red, getLsbD_placed _ _ _ (by decide)]
  by_cases hall : red x = 15
  · rw [if_pos (by omega)]
    intro hmsb
    refine hx (BitVec.eq_of_getLsbD_eq fun j hj => ?_)
    rw [getLsbD_eq_msb_of_red (by omega) hj, hmsb]
    exact BitVec.getLsbD_zero.symm
  · rw [if_neg (by omega), if_pos (by omega)]
    exact (getLsbD_ne_of_runLength (n := 15) (by change _ + red x = 15; omega)).symm

theorem negWord_toInt {k : Nat} (h : k ≤ 15) : (negWord k).toInt = -k ∧ ((negWord k).setWidth 8).toInt = -k := by
  have all : ∀ j < 16, (negWord j).toInt = -j ∧ ((negWord j).setWidth 8).toInt = -j := by decide
  exact all k (by omega)

theorem expHi_bank (v : Word) (s : State) : (expHi v s).bank = { s.bank with se := negWord (red v) } := by
  rw [expHi, State.setAstat_bank, State.setBank_bank]

/-- `SE` is no input of the shifter. -/
theorem shiftX_se (b : Bank) (v : Word) (x : Xop) : shiftX { b with se := v } x = shiftX b x := by
  cases x <;> rfl

theorem condShift_always (f : ShiftFn) (x : Xop) (s : State) :
    condShift f x .always s = .next (shiftOp f x (seCode s) s) := rfl

/-- `NORM (HI)` after `EXP (HI)` shifts the same input by its redundant bits. -/
theorem normHi_after_expHi_sr (x : Xop) (s : State) :
    let v := shiftX s.bank x; let u := expHi v s
    (shiftOp .normHi x (seCode u) u).bank.sr = normHi v (-red v) (u.astat.getLsbD Flag.ac) := by
  intro v u
  have hin : shiftX u.bank x = v := by rw [expHi_bank, shiftX_se]
  have hcode : seCode u = -red v := by
    rw [seCode, expHi_bank]
    exact (negWord_toInt (red_le v)).2
  rw [shiftOp, putSr, State.setBank_bank, hin, hcode]

/-- Settles O22: `EXP` leaves the code `-red`, and `NORM` by it is exact. -/
theorem normalizeAfterExponent : Obligations.NormalizeAfterExponent := by
  intro x s
  let v := shiftX s.bank x
  have hse : (expHi v s).bank.se.toInt = -red v := by
    rw [expHi_bank]
    exact (negWord_toInt (red_le v)).1
  have hsr := normHi_after_expHi_sr x s
  refine ⟨expHi v s, _, rfl, condShift_always .normHi x _, red v, red_le v, hse, ?_, fun hv => ?_⟩
  · rw [hsr]
    exact toInt_normHi_red v _
  · rw [hsr]
    exact normHi_red_top_bits hv _

/-! ## An operation with a register move (R191, R283) -/

theorem exec_shcInstr (f : ShiftFn) (x : Xop) (c : Cond) : exec (shcInstr f x c) = condShift f x c := by
  cases f <;> rfl

/-- Settles O23: the operation alone is the one under the condition that always holds. -/
theorem registerMoveAlongside : Obligations.RegisterMoveAlongside := by
  intro z y x d sd s
  refine ⟨fun f => ⟨compute f z y x s, ?_, rfl⟩, fun f => ⟨shiftOp f x (seCode s) s, ?_, rfl⟩⟩
  · rw [exec_ccInstr]
    rfl
  · rw [exec_shcInstr, condShift_always]

end Sys2Proof.Machine
end

section
/-! PROOFS. The registers by group and index (R210 to R225): reads, writes and operand codes as the tables give
them by number: RegisterWrites, RegisterReads. -/

namespace Sys2Proof.Machine

open Sys2Proof.Claims

/-! ## Group 0 (R211, R212) -/

theorem rdDreg_eq_tableRead (s : State) (d : Dreg) : rdDreg s d = tableRead s .data d.code := by
  cases d <;> rfl

theorem extSe_eq (v : Word) : extSe v = BitVec.ofInt 16 (v.extractLsb' 0 8).toInt := by
  rw [extSe, BitVec.setWidth_eq_extractLsb' (by decide)]
  rfl

/-- The 8 bits above `MR1` are its sign (R212). -/
theorem signExtend_eq_cat (v : Word) : v.signExtend 24 = cat (if v.getLsbD 15 then 0xFF#8 else 0x00#8) v := by
  apply BitVec.eq_of_getLsbD_eq
  intro j hj
  rw [BitVec.getLsbD_signExtend, getLsbD_cat, ← BitVec.msb_eq_getLsbD_last]
  by_cases hlow : j < 16
  · simp [hj, hlow]
  · have hbyte : j - 16 < 8 := by omega
    rw [if_neg hlow, if_neg hlow]
    interval_cases j <;> cases v.msb <;> rfl

theorem cat_cat_word (x : BitVec 8) (y z : Word) : (cat (cat x y) z : BitVec 40) = cat x (cat y z) := by
  apply BitVec.eq_of_toNat_eq
  simp only [toNat_cat]
  omega

theorem Bank.putMr1_eq (b : Bank) (v : Word) : b.putMr1 v =
    { b with mr := cat (if v.getLsbD 15 then 0xFF#8 else 0x00#8) (cat v (b.mr.extractLsb' 0 16)) } := by
  rw [Bank.putMr1, signExtend_eq_cat, cat_cat_word]

theorem wrDreg_eq_tableWrite (s : State) (d : Dreg) (v : Word) : wrDreg d v s = tableWrite .data d.code v s := by
  cases d with
  | se => rw [wrDreg, Bank.write, extSe_eq]; rfl
  | mr1 => rw [wrDreg, Bank.write, Bank.putMr1_eq]; rfl
  | mr2 => rw [wrDreg, Bank.write, Bank.putMr2, BitVec.setWidth_eq_extractLsb' (by decide)]; rfl
  | _ => rfl

/-! ## Groups 1 and 2 (R206, R207, R213) -/

theorem toNat_dagSlot (r : BitVec 4) : (r.extractLsb' 2 2).toNat = r.toNat / 4 := by
  revert r
  decide

/-- The generator that an index in slot `q` of group 1 or 2 names, by its number. -/
theorem dagGen_of_slot {upper : Bool} {r : BitVec 4} {q : Nat} (hq : r.toNat / 4 = q) :
    dagGen upper r = Fin.ofNat 8 (r.toNat + 4 * upper.toNat - 4 * q) := by
  subst hq
  revert upper r
  decide

theorem rdDag_eq (s : State) (upper : Bool) (r : BitVec 4) :
    rdDag s upper r =
      let k := r.toNat + 4 * upper.toNat
      if r.toNat < 4 then BitVec.ofNat 16 (s.gen (Fin.ofNat 8 k)).i.toNat
      else if r.toNat < 8 then (s.gen (Fin.ofNat 8 (k - 4))).m
      else if r.toNat < 12 then BitVec.ofNat 16 (s.gen (Fin.ofNat 8 (k - 8))).l.toNat
      else 0 := by
  simp only [BitVec.ofNat_toNat, rdDag, toNat_dagSlot]
  split_ifs with h4 h8 h12
  · have hq : r.toNat / 4 = 0 := by omega
    simp only [hq, dagGen_of_slot hq, Nat.mul_zero, Nat.sub_zero]
  · have hq : r.toNat / 4 = 1 := by omega
    simp only [hq, dagGen_of_slot hq]
  · have hq : r.toNat / 4 = 2 := by omega
    simp only [hq, dagGen_of_slot hq]
  · have hq : r.toNat / 4 = 3 := by omega
    simp only [hq]

theorem writeI_eq (n : Nat) (v : Word) (s : State) : writeI (Fin.ofNat 8 n) v s = tableWriteI n v s := by
  rw [writeI, BitVec.setWidth_eq_extractLsb' (by decide)]
  rfl

theorem writeM_eq (n : Nat) (v : Word) (s : State) : writeM (Fin.ofNat 8 n) v s = tableWriteM n v s := by
  rw [writeM, extM, BitVec.setWidth_eq_extractLsb' (by decide)]
  rfl

theorem writeL_eq (n : Nat) (v : Word) (s : State) : writeL (Fin.ofNat 8 n) v s = tableWriteL n v s := by
  rw [writeL, BitVec.setWidth_eq_extractLsb' (by decide)]
  rfl

theorem wrDag_eq (upper : Bool) (r : BitVec 4) (v : Word) (s : State) :
    wrDag upper r v s =
      let k := r.toNat + 4 * upper.toNat
      if r.toNat < 4 then tableWriteI k v s
      else if r.toNat < 8 then tableWriteM (k - 4) v s
      else if r.toNat < 12 then tableWriteL (k - 8) v s
      else s := by
  simp only [← writeI_eq, ← writeM_eq, ← writeL_eq, wrDag, toNat_dagSlot]
  split_ifs with h4 h8 h12
  · have hq : r.toNat / 4 = 0 := by omega
    simp only [hq, dagGen_of_slot hq, Nat.mul_zero, Nat.sub_zero]
  · have hq : r.toNat / 4 = 1 := by omega
    simp only [hq, dagGen_of_slot hq]
  · have hq : r.toNat / 4 = 2 := by omega
    simp only [hq, dagGen_of_slot hq]
  · have hq : r.toNat / 4 = 3 := by omega
    simp only [hq]

/-! ## Group 3 (R214) -/

theorem rdCtl_eq_tableRead (s : State) (r : BitVec 4) : rdCtl s r = tableRead s .ctl r := by
  have hr := r.isLt
  simp only [rdCtl, tableRead, BitVec.ofNat_toNat]
  interval_cases r.toNat <;> rfl

theorem extSb_eq (v : Word) : extSb v = BitVec.ofInt 16 (v.extractLsb' 0 5).toInt := by
  rw [extSb, BitVec.setWidth_eq_extractLsb' (by decide)]
  rfl

theorem wrCtl_eq_tableWrite (r : BitVec 4) (v : Word) (s : State) : wrCtl r v s = tableWrite .ctl r v s := by
  have hr := r.isLt
  simp (disch := decide) only [wrCtl, tableWrite, extSb_eq, BitVec.setWidth_eq_extractLsb']
  interval_cases r.toNat <;> rfl

/-! ## Every group (R210) -/

theorem rdReg_eq_tableRead (s : State) (g : RegGroup) (r : BitVec 4) : rdReg s g r = tableRead s g r := by
  cases g with
  | data => rw [rdReg, rdDreg_eq_tableRead, Dreg.code_ofCode]
  | dag1 => simp [rdReg, rdDag_eq, tableRead]
  | dag2 => simp [rdReg, rdDag_eq, tableRead, Nat.add_comm 4]
  | ctl => exact rdCtl_eq_tableRead s r

theorem wrReg_eq_tableWrite (g : RegGroup) (r : BitVec 4) (v : Word) (s : State) :
    wrReg g r v s = tableWrite g r v s := by
  cases g with
  | data => rw [wrReg, wrDreg_eq_tableWrite, Dreg.code_ofCode]
  | dag1 => simp [wrReg, wrDag_eq, tableWrite]
  | dag2 => simp [wrReg, wrDag_eq, tableWrite, Nat.add_comm 4]
  | ctl => exact wrCtl_eq_tableWrite r v s

/-- Settles O29: each load is one write of the register named. -/
theorem registerWrites : Obligations.RegisterWrites := by
  intro g sg r sr d v v14 a s
  refine ⟨?loadImm14, ?loadImm16, ?loadDirect, ?move⟩
  case loadImm14 => exact congrArg Host.Outcome.next (wrReg_eq_tableWrite g r _ s)
  case loadImm16 => exact congrArg Host.Outcome.next (wrDreg_eq_tableWrite s d v)
  case loadDirect => exact congrArg Host.Outcome.next (wrReg_eq_tableWrite g r _ (afterDmRead a s))
  case move =>
    rw [← rdReg_eq_tableRead]
    exact congrArg Host.Outcome.next (wrReg_eq_tableWrite g r _ s)

/-! ## The `ZERO` slots and the compute operands (R216, R75, R76) -/

/-- The index `r` of group `g` names no register (R216). -/
def ZeroSlot (g : RegGroup) (r : BitVec 4) : Prop :=
  (g = .dag1 ∧ 12 ≤ r.toNat) ∨ (g = .dag2 ∧ 12 ≤ r.toNat) ∨ (g = .ctl ∧ 8 ≤ r.toNat)

theorem rdReg_zeroSlot {g : RegGroup} {r : BitVec 4} (h : ZeroSlot g r) (s : State) : rdReg s g r = 0 := by
  rw [rdReg_eq_tableRead]
  rcases h with ⟨rfl, hr⟩ | ⟨rfl, hr⟩ | ⟨rfl, hr⟩
  · simp (disch := omega) only [tableRead, if_neg]
  · simp (disch := omega) only [tableRead, if_neg]
  · exact List.getD_eq_default _ _ hr

theorem wrReg_zeroSlot {g : RegGroup} {r : BitVec 4} (h : ZeroSlot g r) (v : Word) (s : State) :
    wrReg g r v s = s := by
  rw [wrReg_eq_tableWrite]
  rcases h with ⟨rfl, hr⟩ | ⟨rfl, hr⟩ | ⟨rfl, hr⟩
  · simp (disch := omega) only [tableWrite, if_neg]
  · simp (disch := omega) only [tableWrite, if_neg]
  · have hlt := r.isLt
    simp only [tableWrite]
    interval_cases r.toNat <;> rfl

/-- Settles O30: the registers are those of the tables, and an operand code is the place of its register in the
list. -/
theorem registerReads : Obligations.RegisterReads := by
  refine ⟨rdReg_eq_tableRead, rdDreg_eq_tableRead, wrDreg_eq_tableWrite,
    fun g r hz s => ⟨rdReg_zeroSlot hz s, fun v => wrReg_zeroSlot hz v s⟩, fun _ => rfl, fun b x y => ?_⟩
  have hx := Xop.code_ofCode x
  have hy := Yop.code_ofCode y
  generalize Xop.ofCode x = cx at hx ⊢
  generalize Yop.ofCode y = cy at hy ⊢
  subst hx hy
  refine ⟨?aluX, ?macX, ?shiftX, ?aluY, ?macY⟩
  case aluX => cases cx <;> rfl
  case macX => cases cx <;> rfl
  case shiftX => cases cx <;> rfl
  case aluY => cases cy <;> rfl
  case macY => cases cy <;> rfl

end Sys2Proof.Machine
end

section
/-! PROOFS. The address generators (R200 to R209, R228): `MODIFY`, the effective address, the length mask and a
circular buffer: ModifySteps, EffectiveAddress, LengthMask, CircularBuffer, BufferAddressIsIndex. -/

namespace Sys2Proof.Machine

open Sys2Proof.Claims

/-! ## `MODIFY` (R205, R228) -/

theorem ofInt_emod (t : Int) : BitVec.ofInt 14 (t % 16384) = BitVec.ofInt 14 t := by
  apply BitVec.eq_of_toInt_eq
  rw [BitVec.toInt_ofInt, BitVec.toInt_ofInt]
  exact Int.emod_bmod ..

theorem modify_eq_stepped (n m : Fin 8) (s : State) : modify n m s = s.setGen n (stepped s n m) := by
  simp only [modify, modifyIndex, stepped, ofInt_emod, BitVec.setWidth_eq_extractLsb' (show 14 ≤ 16 by decide)]

theorem genOf_eq (g : BitVec 1) (i : BitVec 2) : genOf g i = Fin.ofNat 8 (4 * g.toNat + i.toNat) := by
  revert g i
  decide

/-- The bits above the operands of `MODIFY` are not read (R85). -/
theorem decodeWord_modify (u : BitVec 11) (g : BitVec 1) (i m : BitVec 2) :
    decodeWord (cat 0x09#8 (cat u (cat g (cat i m)))) = .modify (genOf g i) (genOf g m) := by
  rw [decodeWord_cat_low (by decide)]
  simp [decodeLow, opField]

/-- Settles O31: the index is the one the corrected sum leaves, and the group bit is common to the two
numbers. -/
theorem modifySteps : Obligations.ModifySteps := by
  refine ⟨fun n m s => congrArg Host.Outcome.next (modify_eq_stepped n m s), fun u g i m => ?_⟩
  rw [decodeWord_modify, genOf_eq, genOf_eq]

/-! ## The effective address (R201, R203, R204) -/

theorem getLsbD_bitRev (x : Addr) {k : Nat} (hk : k < 14) : (bitRev x).getLsbD k = x.getLsbD (13 - k) := by
  rw [bitRev, BitVec.getLsbD_reverse, BitVec.getMsbD_eq_getLsbD]
  simp [hk]

/-- Bit reversal acts on the generators of DAG1 (R204; `REV_SCOPE` at its default). -/
theorem revScope_contains (n : Fin 8) : Config.revScope.contains n = decide (n.val < 4) := by
  revert n
  decide

theorem ea_eq (s : State) (n : Fin 8) :
    ea s n =
      let g := s.gen n
      let a := (g.i &&& g.mask) ||| g.base
      if s.mstat.getLsbD 1 ∧ n.val < 4 then bitRev a else a := by
  simp only [ea, revScope_contains, Bool.and_eq_true, decide_eq_true_eq]
  rfl

/-- Settles O32: a bit of the address is the bit at its own or at the mirrored place. -/
theorem effectiveAddress : Obligations.EffectiveAddress := by
  refine ⟨fun s n k hk => ?_, fun x => ⟨BitVec.reverse_reverse_eq, fun k hk => getLsbD_bitRev x hk⟩⟩
  dsimp only
  rw [ea_eq]
  split
  case isTrue => rw [getLsbD_bitRev _ hk, BitVec.getLsbD_or, BitVec.getLsbD_and]
  case isFalse => rw [BitVec.getLsbD_or, BitVec.getLsbD_and]

/-! ## The length mask (R202) -/

/-- The thresholds from `2 ^ (n - 1)` downward find the ceiling of the logarithm. -/
theorem maskBits_eq_clog {i n : Nat} (h : i ≤ 2 ^ n) : maskBits i n = Nat.clog 2 i := by
  induction n with
  | zero => exact (Nat.clog_of_right_le_one h 2).symm
  | succ n ih =>
    rw [maskBits]
    split
    case isTrue hlt =>
      exact le_antisymm ((Nat.lt_clog_iff_pow_lt Nat.one_lt_two).mpr hlt) (Nat.clog_le_of_le_pow h)
    case isFalse hle => exact ih (Nat.le_of_not_lt hle)

theorem toNat_maskTable {l : Addr} (hl : l ≠ 0) : (maskTable l).toNat = 2 ^ Nat.clog 2 l.toNat - 1 := by
  have hle : l.toNat ≤ 2 ^ 14 := l.isLt.le
  have hpow : 2 ^ Nat.clog 2 l.toNat ≤ 2 ^ 14 := Nat.pow_le_pow_right (by decide) (Nat.clog_le_of_le_pow hle)
  rw [maskTable, if_neg hl, maskBits_eq_clog hle, BitVec.toNat_ofNat, Nat.mod_eq_of_lt (by omega)]

/-- Settles O33: the mask is found by its logarithm, and the ceiling of the logarithm is the least exponent. -/
theorem lengthMask : Obligations.LengthMask := by
  refine ⟨rfl, fun l hl => ?_⟩
  have hcover : l.toNat ≤ 2 ^ Nat.clog 2 l.toNat := Nat.le_pow_clog Nat.one_lt_two _
  rw [toNat_maskTable hl]
  refine ⟨rfl, Nat.sub_le_sub_right hcover 1, fun k hk => Nat.sub_le_sub_right ?_ 1⟩
  have hpos : 0 < 2 ^ k := Nat.two_pow_pos k
  exact Nat.pow_le_pow_right (by decide) (Nat.clog_le_of_le_pow (by omega))

/-! ## A circular buffer (R205, R208, R209) -/

/-- Every mask is `2 ^ k - 1`, with room for the length; length 0 is the whole space. -/
theorem maskTable_eq_two_pow (l : Addr) :
    ∃ k, (maskTable l).toNat = 2 ^ k - 1 ∧ l.toNat ≤ 2 ^ k ∧ (l = 0 → k = 14) := by
  by_cases hl : l = 0
  · exact ⟨14, by rw [hl]; rfl, l.isLt.le, fun _ => rfl⟩
  · exact ⟨_, toNat_maskTable hl, Nat.le_pow_clog Nat.one_lt_two _, fun h => absurd h hl⟩

/-- The base is a multiple of the power of two that covers the buffer, so the masked index is the offset. -/
theorem masked_or_base_eq_index {g : Gen} (hg : g.Sound)
    (hin : g.l = 0 ∨ (g.base.toNat ≤ g.i.toNat ∧ g.i.toNat < g.base.toNat + g.l.toNat)) :
    (g.i &&& g.mask) ||| g.base = g.i := by
  obtain ⟨-, hmask, hbase⟩ := hg
  obtain ⟨k, hk, hcover, hzero⟩ := maskTable_eq_two_pow g.l
  rw [← hmask] at hk
  have hmod : g.base.toNat % 2 ^ k = 0 := by
    rw [← Nat.and_two_pow_sub_one_eq_mod, ← hk, ← BitVec.toNat_and, hbase]
    rfl
  have hoff : g.base.toNat ≤ g.i.toNat ∧ g.i.toNat - g.base.toNat < 2 ^ k := by
    rcases hin with hl | hin
    · have hi := g.i.isLt
      have hb := g.base.isLt
      rw [hzero hl] at hmod ⊢
      omega
    · omega
  obtain ⟨q, hq⟩ := Nat.dvd_of_mod_eq_zero hmod
  obtain ⟨off, hi⟩ := Nat.exists_eq_add_of_le hoff.1
  have hlt : off < 2 ^ k := by omega
  apply BitVec.eq_of_toNat_eq
  calc ((g.i &&& g.mask) ||| g.base).toNat
    _ = (2 ^ k * q + off) % 2 ^ k ||| 2 ^ k * q := by
      rw [BitVec.toNat_or, BitVec.toNat_and, hk, Nat.and_two_pow_sub_one_eq_mod, hi, hq]
    _ = 2 ^ k * q ||| off := by rw [Nat.mul_add_mod, Nat.mod_eq_of_lt hlt, Nat.or_comm]
    _ = g.i.toNat := by rw [← Nat.two_pow_add_eq_or_of_lt hlt, ← hq, ← hi]

/-- Settles O35: inside the buffer the address before bit reversal is the index. -/
theorem bufferAddressIsIndex : Obligations.BufferAddressIsIndex := by
  intro s n g hg hin
  rw [ea_eq]
  simp only [masked_or_base_eq_index hg hin, g]

/-- The index stands in its buffer, which ends below 2^14. -/
def Gen.InBuffer (g : Gen) : Prop :=
  g.base.toNat ≤ g.i.toNat ∧ g.i.toNat < g.base.toNat + g.l.toNat ∧ g.base.toNat + g.l.toNat ≤ 16384

/-- The address at distance `d` from the base, counted modulo the length. -/
def Gen.place (g : Gen) (d : Int) : Int := g.base.toNat + d % g.l.toNat

/-- An address of the buffer is the place of every distance that differs from its own by lengths. -/
theorem Gen.place_eq {g : Gen} {d t : Int} (c : Int) (hd : d + g.l.toNat * c = t - g.base.toNat)
    (hge : g.base.toNat ≤ t) (hlt : t < g.base.toNat + g.l.toNat) : g.place d = t := by
  rw [Gen.place, ← Int.add_mul_emod_self_left d g.l.toNat c, hd, Int.emod_eq_of_lt (by omega) (by omega)]
  omega

theorem Gen.place_index {g : Gen} (hg : g.InBuffer) : g.place (g.i.toNat - g.base.toNat) = g.i.toNat := by
  obtain ⟨hge, hlt, -⟩ := hg
  exact Gen.place_eq 0 (by omega) (by omega) (by omega)

theorem Gen.place_bounds {g : Gen} (hl : 0 < g.l.toNat) (d : Int) :
    g.base.toNat ≤ g.place d ∧ g.place d < g.base.toNat + g.l.toNat := by
  have h0 := Int.emod_nonneg d (b := g.l.toNat) (by omega)
  have h1 := Int.emod_lt_of_pos d (b := g.l.toNat) (by omega)
  unfold Gen.place
  omega

/-- The distance of a place stands for the distance it was made from. -/
theorem Gen.place_place_add (g : Gen) (d e : Int) : g.place (g.place d - g.base.toNat + e) = g.place (d + e) := by
  simp only [Gen.place, add_sub_cancel_left, Int.emod_add_emod]

/-- An address of a buffer below 2^14 is kept whole in the 14 bits of an index. -/
theorem Gen.toNat_ofInt_eq_place {g : Gen} (hend : g.base.toNat + g.l.toNat ≤ 16384) {d t : Int} (c : Int)
    (hd : d + g.l.toNat * c = t - g.base.toNat) (hge : g.base.toNat ≤ t) (hlt : t < g.base.toNat + g.l.toNat) :
    ((BitVec.ofInt 14 t).toNat : Int) = g.place d := by
  rw [Gen.place_eq c hd hge hlt, BitVec.toNat_ofInt]
  omega

/-- The generator after one modify by a register that holds `m`. -/
def Gen.modified (m : Word) (g : Gen) : Gen := { g with i := modifyIndex g m }

theorem modify_gen (n m : Fin 8) (s : State) : (modify n m s).gen n = (s.gen n).modified (s.gen m).m :=
  State.setGen_gen_same ..

theorem modify_gen_m (n m k : Fin 8) (s : State) : ((modify n m s).gen k).m = (s.gen k).m := by
  rw [modify, State.setGen_gen]
  split
  case isTrue h => rw [h]
  case isFalse => rfl

/-- No modify changes the modify value, so each goes on by the same. -/
theorem modify_iterate_gen (n m : Fin 8) (k : Nat) (s : State) :
    ((modify n m)^[k] s).gen n = (Gen.modified (s.gen m).m)^[k] (s.gen n) := by
  induction k generalizing s with
  | zero => rfl
  | succ k ih => rw [Function.iterate_succ_apply, Function.iterate_succ_apply, ih, modify_gen_m, modify_gen]

section
variable {g : Gen} {m : Word} (hg : g.InBuffer) (hlo : -(g.l.toNat : Int) ≤ (m.setWidth 14).toInt)
  (hhi : (m.setWidth 14).toInt ≤ g.l.toNat)
include hg hlo hhi

/-- One correction is enough where the modify value is not longer than the buffer. -/
theorem Gen.toNat_modified_i :
    ((g.modified m).i.toNat : Int) = g.place (g.i.toNat - g.base.toNat + (m.setWidth 14).toInt) := by
  obtain ⟨hge, hlt, hend⟩ := hg
  simp only [Gen.modified, modifyIndex]
  split_ifs with hbelow habove
  · exact Gen.toNat_ofInt_eq_place hend 1 (by omega) (by omega) (by omega)
  · exact Gen.toNat_ofInt_eq_place hend (-1) (by omega) (by omega) (by omega)
  · exact Gen.toNat_ofInt_eq_place hend 0 (by omega) (by omega) (by omega)

theorem Gen.modified_inBuffer : (g.modified m).InBuffer := by
  have hi := Gen.toNat_modified_i hg hlo hhi
  obtain ⟨hge, hlt, hend⟩ := hg
  obtain ⟨hge', hlt'⟩ := Gen.place_bounds (g := g) (by omega) (g.i.toNat - g.base.toNat + (m.setWidth 14).toInt)
  rw [← hi] at hge' hlt'
  exact ⟨Int.ofNat_le.mp hge', Int.ofNat_lt.mp hlt', hend⟩

/-- After `k` modifies the index is at its place `k` modify values on. -/
theorem Gen.toNat_modified_iterate_i (k : Nat) : (((Gen.modified m)^[k] g).i.toNat : Int) =
    g.place (g.i.toNat - g.base.toNat + k * (m.setWidth 14).toInt) := by
  induction k generalizing g with
  | zero => rw [Int.natCast_zero, zero_mul, add_zero, Gen.place_index hg, Function.iterate_zero_apply]
  | succ k ih =>
    rw [Function.iterate_succ_apply, ih (Gen.modified_inBuffer hg hlo hhi) hlo hhi, Gen.toNat_modified_i hg hlo hhi]
    refine (Gen.place_place_add g _ _).trans (congrArg g.place ?_)
    push_cast
    ring

end

/-- Settles O34: the steps are counted modulo the length, and the length of them by 1 is 0. -/
theorem circularBuffer : Obligations.CircularBuffer := by
  intro s n m g v _ hlo hhi hge hlt hend
  have hv : ((s.gen m).m.setWidth 14).toInt = v := by rw [BitVec.setWidth_eq_extractLsb' (by decide)]
  have hg : g.InBuffer := ⟨hge, hlt, hend⟩
  have hsteps : ∀ k : Nat, ((((modify n m)^[k] s).gen n).i.toNat : Int) =
      g.place (g.i.toNat - g.base.toNat + k * v) := fun k => by
    rw [modify_iterate_gen, Gen.toNat_modified_iterate_i hg (hv ▸ hlo) (hv ▸ hhi), hv]
  refine ⟨hsteps, fun h1 => BitVec.eq_of_toNat_eq (Int.ofNat.inj ?_)⟩
  calc ((((modify n m)^[g.l.toNat] s).gen n).i.toNat : Int)
    _ = g.place (g.i.toNat - g.base.toNat + g.l.toNat * 1) := by rw [hsteps, h1]
    _ = g.place (g.i.toNat - g.base.toNat) := by rw [Gen.place, Int.add_mul_emod_self_left, ← Gen.place]
    _ = g.i.toNat := Gen.place_index hg

end Sys2Proof.Machine
end

section
/-! PROOFS. Program control (R240 to R255): the transfers under their condition, the words of the sequencer, a
return after a call, an idle core, and the words the spec writes out: SampleWords, Transfers, SequencerWords,
CallThenReturn, IdleHoldsUntilTaken. -/

namespace Sys2Proof.Machine

open Sys2Proof.Claims

/-! ## Words of the spec's examples -/

/-- Settles O4: the decoder runs on each of the ten words. -/
theorem sampleWords : Obligations.SampleWords :=
  ⟨rfl, rfl, rfl, rfl, rfl, rfl, rfl, rfl, rfl, rfl⟩

/-! ## Jumps, calls and returns (R245 to R249) -/

theorem genOf_dag2_eq (i : BitVec 2) : genOf 1#1 i = Fin.ofNat 8 (4 + i.toNat) := genOf_eq 1#1 i

/-- A direct transfer has no ignored bits, so each of its words is an encoding. -/
theorem decodeWord_direct (a : Addr) (k : BitVec 4) :
    decodeWord (cat 0b000110#6 (cat a k)) = .jump a (.ofCode k) ∧
    decodeWord (cat 0b000111#6 (cat a k)) = .call a (.ofCode k) := by
  have hj := decodeWord_encode (i := .jump a (.ofCode k)) rfl
  have hc := decodeWord_encode (i := .call a (.ofCode k)) rfl
  simp only [encode, Cond.code_ofCode] at hj hc
  exact ⟨hj, hc⟩

/-- Bit 4 tells a call from a jump; bit 5 and the bits above the index field are not read (R85). -/
theorem decodeWord_indirect (u8 : BitVec 8) (i : BitVec 2) (u1 : BitVec 1) (k : BitVec 4) :
    decodeWord (cat 0x0B#8 (cat u8 (cat i (cat u1 (cat 0#1 k))))) = .jumpInd (genOf 1#1 i) (.ofCode k) ∧
    decodeWord (cat 0x0B#8 (cat u8 (cat i (cat u1 (cat 1#1 k))))) = .callInd (genOf 1#1 i) (.ofCode k) := by
  refine ⟨?jumpInd, ?callInd⟩
  all_goals
    rw [decodeWord_cat_low (by decide)]
    simp [decodeLow, opField]

/-- Bit 4 tells `RTI` from `RTS`. -/
theorem decodeWord_return (u11 : BitVec 11) (k : BitVec 4) :
    decodeWord (cat 0x0A#8 (cat u11 (cat 0#1 k))) = .rts (.ofCode k) ∧
    decodeWord (cat 0x0A#8 (cat u11 (cat 1#1 k))) = .rti (.ofCode k) := by
  refine ⟨?rts, ?rti⟩
  all_goals
    rw [decodeWord_cat_low (by decide)]
    simp [decodeLow, opField]

/-- Settles O36: each transfer is its effect under the condition, and its words by format. -/
theorem transfers : Obligations.Transfers := by
  refine ⟨fun a n c s => ?_, fun a k u8 u1 u11 i => ?_⟩
  · have does {i : Instr} {k : State → State} (h : exec i s = condDo c k s) : exec i s = .next (gated c k s) :=
      h.trans (condDo_eq_gated fun _ => rfl)
    exact ⟨does rfl, does rfl, does rfl, does rfl, does rfl, does rfl⟩
  · obtain ⟨hJump, hCall⟩ := decodeWord_direct a k
    obtain ⟨hJumpInd, hCallInd⟩ := decodeWord_indirect u8 i u1 k
    obtain ⟨hRts, hRti⟩ := decodeWord_return u11 k
    rw [genOf_dag2_eq] at hJumpInd hCallInd
    exact ⟨hJump, hCall, hJumpInd, hCallInd, hRts, hRti⟩

/-! ## Stack control and mode control (R250, R252) -/

/-- A 2-bit code whose high bit asks for an effect and whose low bit chooses it (R250, R252). -/
theorem ite_code_bits {α : Type} (code : BitVec 2) (onTen onEleven keep : α) :
    (if code.getLsbD 1 then (if code.getLsbD 0 then onEleven else onTen) else keep) =
      if code = 2 then onTen else if code = 3 then onEleven else keep := by
  fin_cases code <;> rfl

/-- A mode bit after its code, and every other bit as before (R252). -/
theorem getLsbD_modeBit (code : BitVec 2) {k : Nat} (hk : k < 4) (v : BitVec 4) (j : Nat) :
    (modeBit code k v).getLsbD j =
      if j = k then (if code = 2 then false else if code = 3 then true else v.getLsbD j) else v.getLsbD j := by
  rw [modeBit, apply_ite (BitVec.getLsbD · j), getLsbD_putBit]
  by_cases h : j = k
  · subst h
    rw [← ite_code_bits code false true]
    simp [hk]
  · simp [h]

/-- Settles O38: the pushes and pops are the model's own in R250's order, and each mode bit is written by its
code alone. -/
theorem sequencerWords : Obligations.SequencerWords := by
  refine ⟨fun a t s => ⟨rfl, rfl⟩, fun p l c sts s => ?_, fun sat latch rev bank s => ⟨_, rfl, ?_⟩⟩
  · exact congrArg Host.Outcome.next (ite_code_bits sts _ _ _)
  · simp [-BitVec.getLsbD_eq_getElem, getLsbD_modeBit, Mode.bank, Mode.reverse, Mode.avLatch, Mode.arSat]

/-! ## A return after a call (R246, R248) -/

theorem exec_call_always (a : Addr) (s : State) :
    exec (.call a .always) s = .next ((pushPc s.pc s).setPc a) := rfl

theorem exec_rts_always (s : State) : exec (.rts .always) s = .next ((popPc s).setPc (topPc s)) := rfl

/-- The state after a call of `a` and its return. -/
def callReturn (a : Addr) (s : State) : State := (popPc ((pushPc s.pc s).setPc a)).setPc s.pc

theorem exec_rts_after_call (a : Addr) (s : State) :
    exec (.rts .always) ((pushPc s.pc s).setPc a) = .next (callReturn a s) := by
  have htop : topPc ((pushPc s.pc s).setPc a) = s.pc := HwStack.top_push s.pcStk s.pc
  rw [exec_rts_always, htop, callReturn]

/-- The pop takes the pointer back, at the wrap too; the pushed value stays in its cell. -/
theorem callReturn_frame (a : Addr) (s : State) :
    callReturn a s = { s with pcStk := { cells := (s.pcStk.push s.pc).cells, sp := s.pcStk.sp },
                              sstat := (callReturn a s).sstat } := by
  have hk : (s.pcStk.push s.pc).pop = { cells := (s.pcStk.push s.pc).cells, sp := s.pcStk.sp } :=
    HwStack.ext rfl (HwStack.pop_push_sp s.pcStk s.pc)
  rw [← hk]
  rfl

/-- Only the bits of the PC stack can change, and the wrapped one only at the wrap. -/
theorem getLsbD_callReturn_sstat (a : Addr) (s : State) {j : Nat} (hj : j ≠ 0) :
    (callReturn a s).sstat.getLsbD j = (s.sstat.getLsbD j || (j == 1 && s.pcStk.pushWraps)) := by
  have hwrap : (s.pcStk.push s.pc).popWraps = s.pcStk.pushWraps := by
    rw [HwStack.popWraps, HwStack.pushWraps, HwStack.push_sp]
    generalize s.pcStk.sp = p
    revert p
    decide
  rw [callReturn, State.setPc_sstat, popPc_sstat, State.setPc_sstat, pushPc_sstat, State.setPc_pcStk,
    pushPc_pcStk, hwrap, getLsbD_sstatAfter _ _ _ _ _ (by decide), getLsbD_sstatAfter _ _ _ _ _ (by decide)]
  by_cases h1 : j = 1 <;> simp [h1, hj, pcEmptyBit]

/-- Settles O37: the pop takes the pointer back and gives the pushed PC, and of the status word only the two
bits of the PC stack follow. -/
theorem callThenReturn : Obligations.CallThenReturn := by
  intro a s
  refine ⟨(pushPc s.pc s).setPc a, callReturn a s, exec_call_always a s, rfl, HwStack.top_push s.pcStk s.pc,
    exec_rts_after_call a s, callReturn_frame a s, fun j hj => ?_, fun hsp => ?_⟩
  · have h1 : (j == 1) = false := beq_false_of_ne (by omega)
    rw [getLsbD_callReturn_sstat a s (by omega), h1, Bool.false_and, Bool.or_false]
  · have hw : s.pcStk.pushWraps = false := beq_false_of_ne hsp
    rw [getLsbD_callReturn_sstat a s (by decide), hw, Bool.and_false, Bool.or_false]

/-! ## An idle core (R255, R71) -/

/-- The pass takes the requesting line above which none requests (R306). -/
theorem arbitrate_of_highest {s : State} {n : Fin 4} (hn : Requests s n)
    (hmax : ∀ m, n < m → ¬Requests s m) : arbitrate s = enter n s := by
  obtain ⟨hactive, henabled⟩ := hn
  rcases arbitrate_cases s with ⟨hnone, _⟩ | ⟨m, hm, harb⟩
  · have := (takenLine_none s).mp hnone n hactive
    exact absurd (henabled.symm.trans this) (by decide)
  · obtain ⟨ha, he, habove⟩ := takenLine_some s hm
    rcases lt_trichotomy n m with h | h | h
    · exact absurd ⟨ha, he⟩ (hmax m h)
    · rw [harb, h]
    · exact absurd (henabled.symm.trans (habove n h hactive)) (by decide)

theorem enter_pcStk (n : Fin 4) (s : State) : (enter n s).pcStk = s.pcStk.push s.pc := rfl

theorem enter_pc (n : Fin 4) (s : State) : (enter n s).pc = BitVec.ofNat 14 n.val := rfl

theorem enter_idle (n : Fin 4) (s : State) : (enter n s).idle = false := rfl

/-- A state that a step does not leave is kept by any number of steps. -/
theorem run_of_step_self {s : State} (h : step s = .next s) (k : Nat) : Host.Core.run core k s = .next s := by
  induction k with
  | zero => rfl
  | succ k ih =>
    have hs : core.step s = .next s := h
    simp only [Host.Core.run, hs]
    exact ih

/-- Settles O48: with no line requesting the step ends where it began; a taken line's entry wakes the core, and
the step goes on from the vector. -/
theorem idleHoldsUntilTaken : Obligations.IdleHoldsUntilTaken := by
  intro s hidle
  refine ⟨fun hq => run_of_step_self ?_, fun n hn hmax => ⟨?_, enter_idle n s, ?_⟩⟩
  · have ha := arbitrate_of_no_request hq
    rw [step_idle (ha.symm ▸ hidle), ha]
  · have ha := arbitrate_of_highest hn hmax
    have hstep := step_awake (s := s) (by rw [ha, enter_idle])
    rw [ha] at hstep
    rw [hstep, fetch, afterFetch_eq_portPm, State.setPpc_pc, enter_pc]
  · rw [topPc, enter_pcStk, HwStack.top_push]

end Sys2Proof.Machine
end

section
/-! PROOFS. The multifunction instructions (R284 to R288, R192, R193, R226, R227): an operation with an access
to a memory beside it, and the two plain stores: ProgramMemoryReads, ProgramMemoryWrites, DataMemoryReads,
DataMemoryWrites, DualFetch. -/

namespace Sys2Proof.Machine

open Sys2Proof.Claims

/-! ## The operation beside an access

An access forms its address and reads `PX` and the register before the operation, but reaches the port and the
generators after it. The operation leaves both alone, so the access finds them as they were. -/

theorem exec_ccInstr_always (f : Amf) (z : Bool) (y : Yop) (x : Xop) (s : State) :
    exec (ccInstr f z y x .always) s = .next (compute f z y x s) := by
  rw [exec_ccInstr]
  rfl

theorem exec_shcInstr_always (f : ShiftFn) (x : Xop) (s : State) :
    exec (shcInstr f x .always) s = .next (shiftOp f x (seCode s) s) := by
  rw [exec_shcInstr, condShift_always]

/-- `u` comes from `s` by a change that an access to memory does not see. -/
structure UnseenByAccess (s u : State) : Prop where
  gens : u.gens = s.gens
  port : u.port = s.port

theorem unseenByAccess_refl (s : State) : UnseenByAccess s s := ⟨rfl, rfl⟩

theorem unseenByAccess_compute (f : Amf) (z : Bool) (y : Yop) (x : Xop) (s : State) :
    UnseenByAccess s (compute f z y x s) :=
  ⟨compute_gens s f z y x, compute_port f z y x s⟩

theorem unseenByAccess_shiftOp (f : ShiftFn) (x : Xop) (k : Int) (s : State) :
    UnseenByAccess s (shiftOp f x k s) :=
  ⟨shiftOp_gens s f x k, shiftOp_port f x k s⟩

theorem UnseenByAccess.memories {s u : State} (h : UnseenByAccess s u) :
    u.pm = s.pm ∧ u.dm = s.dm ∧ u.events = s.events := by
  obtain ⟨hpm, hdm, _, _, hevents⟩ := State.port_eq_iff.mp h.port
  exact ⟨hpm, hdm, hevents⟩

/-! ## What an access takes from the port and the generators -/

theorem pmRead_of_port {s u : State} (h : u.port = s.port) (a : Addr) : pmRead u a = pmRead s a := by
  obtain ⟨hpm, _, hdevices, _, hevents⟩ := State.port_eq_iff.mp h
  exact pmRead_congr hpm hdevices hevents a

theorem dmRead_of_port {s u : State} (h : u.port = s.port) (a : Addr) : dmRead u a = dmRead s a := by
  obtain ⟨_, hdm, _, hdevices, hevents⟩ := State.port_eq_iff.mp h
  exact dmRead_congr hdm hdevices hevents a

theorem portDm_port_congr {s u : State} (h : u.port = s.port) (a : Addr) :
    (portDm a u).port = (portDm a s).port := by
  obtain ⟨hpm, hdm, hpmDevices, hdmDevices, hevents⟩ := State.port_eq_iff.mp h
  by_cases hdev : a ∈ s.dmDevices
  · simp [portDm, State.port, hdev, hpm, hdm, hpmDevices, hdmDevices, hevents]
  · simp [portDm, hdmDevices, hdev, h]

theorem afterPmRead_eq_portPm (a : Addr) (s : State) : afterPmRead a s = portPm a s := rfl

theorem afterDmRead_eq_portDm (a : Addr) (s : State) : afterDmRead a s = portDm a s := rfl

theorem portPm_gens (a : Addr) (s : State) : (portPm a s).gens = s.gens := afterPmRead_gens s a

theorem portDm_gens (a : Addr) (s : State) : (portDm a s).gens = s.gens := afterDmRead_gens s a

/-- The step of a generator reads that generator and the modify register. -/
theorem stepped_congr {s u : State} {n m : Fin 8} (hn : u.gen n = s.gen n) (hm : u.gen m = s.gen m) :
    stepped u n m = stepped s n m := by
  unfold stepped
  rw [hn, hm]

theorem modify_of_gens {s u : State} (h : u.gens = s.gens) (n m : Fin 8) :
    modify n m u = u.setGen n (stepped s n m) := by
  have hgen (k : Fin 8) : u.gen k = s.gen k := by rw [State.gen, State.gen, h]
  rw [modify_eq_stepped, stepped_congr (hgen n) (hgen m)]

/-! ## An operation with a read (R284, R286, R192, R193) -/

/-- The access of a program-memory read: `PX`, the generator, and the destination last. -/
theorem pmReadAccess_eq {s u : State} (h : UnseenByAccess s u) (d : Dreg) (n m : Fin 8) (a : Addr) :
    wrDreg d ((pmRead u a).extractLsb' 8 16)
        (modify n m ((afterPmRead a u).setPx ((pmRead u a).extractLsb' 0 8))) =
      wrDreg d ((pmRead s a).extractLsb' 8 16)
        (((portPm a u).setPx ((pmRead s a).extractLsb' 0 8)).setGen n (stepped s n m)) := by
  have hgens (v : Byte) : ((portPm a u).setPx v).gens = s.gens := (portPm_gens a u).trans h.gens
  rw [pmRead_of_port h.port, afterPmRead_eq_portPm, modify_of_gens (hgens _)]

/-- The access of a data-memory read: the generator, and the destination last. -/
theorem dmReadAccess_eq {s u : State} (h : UnseenByAccess s u) (d : Dreg) (n m : Fin 8) (a : Addr) :
    wrDreg d (dmRead u a) (modify n m (afterDmRead a u)) =
      wrDreg d (dmRead s a) ((portDm a u).setGen n (stepped s n m)) := by
  rw [dmRead_of_port h.port, afterDmRead_eq_portDm, modify_of_gens ((portDm_gens a u).trans h.gens)]

/-- Settles O24: the access reads what it would have read before the operation. -/
theorem programMemoryReads : Obligations.ProgramMemoryReads := by
  intro z y x d n m s
  refine ⟨fun f => ?compute, fun f => ?shift⟩
  case compute =>
    have h := unseenByAccess_compute f z y x s
    exact ⟨_, exec_ccInstr_always f z y x s, h.memories,
      congrArg Host.Outcome.next (pmReadAccess_eq h d n m (ea s n))⟩
  case shift =>
    have h := unseenByAccess_shiftOp f x (seCode s) s
    exact ⟨_, exec_shcInstr_always f x s, h.memories,
      congrArg Host.Outcome.next (pmReadAccess_eq h d n m (ea s n))⟩

/-- Settles O26: the access reads what it would have read before the operation. -/
theorem dataMemoryReads : Obligations.DataMemoryReads := by
  intro z y x d n m s
  refine ⟨fun f => ?compute, fun f => ?shift⟩
  case compute =>
    have h := unseenByAccess_compute f z y x s
    exact ⟨_, exec_ccInstr_always f z y x s, h.memories,
      congrArg Host.Outcome.next (dmReadAccess_eq h d n m (ea s n))⟩
  case shift =>
    have h := unseenByAccess_shiftOp f x (seCode s) s
    exact ⟨_, exec_shcInstr_always f x s, h.memories,
      congrArg Host.Outcome.next (dmReadAccess_eq h d n m (ea s n))⟩

/-! ## An operation with a write, and the plain stores (R285, R287, R192, R193, R226, R227) -/

/-- A write of program memory changes that memory or the host's events. -/
theorem pmWrite_frame (a : Addr) (w : OpWord) (s : State) :
    pmWrite a w s = { s with pm := (pmWrite a w s).pm, events := (pmWrite a w s).events } := by
  rcases pmWrite_cases s a w with ⟨_, he⟩ | ⟨_, he⟩ <;> rw [he] <;> rfl

/-- A write of data memory changes that memory or the host's events. -/
theorem dmWrite_frame (a : Addr) (v : Word) (s : State) :
    dmWrite a v s = { s with dm := (dmWrite a v s).dm, events := (dmWrite a v s).events } := by
  rcases dmWrite_cases s a v with ⟨_, he⟩ | ⟨_, he⟩ <;> rw [he] <;> rfl

theorem storesPm_pmWrite (a : Addr) (w : OpWord) (s : State) : StoresPm s (pmWrite a w s) a w := by
  by_cases hdev : a ∈ s.pmDevices
  · rw [StoresPm, if_pos hdev, pmWrite, if_pos hdev]
    exact ⟨rfl, rfl⟩
  · rw [StoresPm, if_neg hdev, pmRead_pmWrite hdev, if_pos rfl, pmWrite, if_neg hdev]
    exact ⟨rfl, rfl, fun k h0 h1 h2 => Memory.read_putPm_other h0 h1 h2 s.pm w⟩

theorem storesDm_dmWrite (a : Addr) (v : Word) (s : State) : StoresDm s (dmWrite a v s) a v := by
  by_cases hdev : a ∈ s.dmDevices
  · rw [StoresDm, if_pos hdev, dmWrite, if_pos hdev]
    exact ⟨rfl, rfl⟩
  · rw [StoresDm, if_neg hdev, dmRead_dmWrite hdev, if_pos rfl, dmWrite, if_neg hdev]
    exact ⟨rfl, rfl, fun k h0 h1 => Memory.read_putDm_other h0 h1 s.dm v⟩

/-- A store is judged by what stands behind the port before and after. -/
theorem StoresPm.of_port {s s' t t' : State} {a : Addr} {w : OpWord} (h : StoresPm s t a w)
    (hs : s.port = s'.port) (ht : t'.port = t.port) : StoresPm s' t' a w := by
  obtain ⟨hpm, _, hdevices, _, hevents⟩ := State.port_eq_iff.mp hs
  obtain ⟨hpm', _, _, _, hevents'⟩ := State.port_eq_iff.mp ht
  simpa only [StoresPm, pmRead_of_port ht, hpm, hdevices, hevents, hpm', hevents'] using h

theorem StoresDm.of_port {s s' t t' : State} {a : Addr} {v : Word} (h : StoresDm s t a v)
    (hs : s.port = s'.port) (ht : t'.port = t.port) : StoresDm s' t' a v := by
  obtain ⟨_, hdm, _, hdevices, hevents⟩ := State.port_eq_iff.mp hs
  obtain ⟨_, hdm', _, _, hevents'⟩ := State.port_eq_iff.mp ht
  simpa only [StoresDm, dmRead_of_port ht, hdm, hdevices, hevents, hdm', hevents'] using h

/-- The access of a program-memory write: the word stored, then the generator stepped. -/
theorem pmWriteAccess_stores {s u t : State} (h : UnseenByAccess s u) {n m : Fin 8} {a : Addr} {w : OpWord}
    (ht : t = modify n m (pmWrite a w u)) :
    t = { u.setGen n (stepped s n m) with pm := t.pm, events := t.events } ∧ StoresPm s t a w ∧ t.dm = s.dm := by
  subst ht
  obtain ⟨_, hdm, _⟩ := h.memories
  refine ⟨?frame, StoresPm.of_port (storesPm_pmWrite a w u) h.port (modify_port n m _), ?otherMemory⟩
  case frame =>
    rw [modify_of_gens ((pmWrite_gens u a w).trans h.gens), pmWrite_frame]
    rfl
  case otherMemory => rw [modify_dm, pmWrite_dm, hdm]

/-- The access of a data-memory write: the word stored, then the generator stepped. -/
theorem dmWriteAccess_stores {s u t : State} (h : UnseenByAccess s u) {n m : Fin 8} {a : Addr} {v : Word}
    (ht : t = modify n m (dmWrite a v u)) :
    t = { u.setGen n (stepped s n m) with dm := t.dm, events := t.events } ∧ StoresDm s t a v ∧ t.pm = s.pm := by
  subst ht
  obtain ⟨hpm, _, _⟩ := h.memories
  refine ⟨?frame, StoresDm.of_port (storesDm_dmWrite a v u) h.port (modify_port n m _), ?otherMemory⟩
  case frame =>
    rw [modify_of_gens ((dmWrite_gens u a v).trans h.gens), dmWrite_frame]
    rfl
  case otherMemory => rw [modify_pm, dmWrite_pm, hpm]

/-- Settles O25: address, register and `PX` are read before the operation, and the operation leaves what the
write goes to. -/
theorem programMemoryWrites : Obligations.ProgramMemoryWrites := by
  intro z y x d n m s
  refine ⟨fun f => ?compute, fun f => ?shift⟩
  case compute =>
    exact ⟨_, _, exec_ccInstr_always f z y x s, rfl,
      pmWriteAccess_stores (unseenByAccess_compute f z y x s) rfl⟩
  case shift =>
    exact ⟨_, _, exec_shcInstr_always f x s, rfl,
      pmWriteAccess_stores (unseenByAccess_shiftOp f x (seCode s) s) rfl⟩

/-- Settles O27: the immediate store is the access with no operation before it, the direct store the write
alone. -/
theorem dataMemoryWrites : Obligations.DataMemoryWrites := by
  intro z y x d n m s
  refine ⟨fun f => ?compute, fun f => ?shift, fun v => ?immediate, fun g a r => ?direct⟩
  case compute =>
    exact ⟨_, _, exec_ccInstr_always f z y x s, rfl,
      dmWriteAccess_stores (unseenByAccess_compute f z y x s) rfl⟩
  case shift =>
    exact ⟨_, _, exec_shcInstr_always f x s, rfl,
      dmWriteAccess_stores (unseenByAccess_shiftOp f x (seCode s) s) rfl⟩
  case immediate => exact ⟨_, rfl, dmWriteAccess_stores (unseenByAccess_refl s) rfl⟩
  case direct =>
    refine ⟨dmWrite a (tableRead s g r) s, ?_, dmWrite_frame .., storesDm_dmWrite ..⟩
    rw [← rdReg_eq_tableRead]
    rfl

/-! ## An operation with two reads (R288, R77, R59) -/

theorem dualXReg_code (d : DualX) : (dualXReg d).code = BitVec.ofNat 4 d.code.toNat := by
  cases d <;> rfl

theorem dualYReg_code (d : DualY) : (dualYReg d).code = BitVec.ofNat 4 (4 + d.code.toNat) := by
  cases d <;> rfl

/-- Generators of the two groups are different. -/
theorem ne_of_inDag {n k : Fin 8} (hn : inDag1 n = true) (hk : inDag2 k = true) : k ≠ n := by
  rintro rfl
  simp only [inDag1, inDag2, decide_eq_true_eq] at hn hk
  omega

/-- Two generators stepped one after the other, where the second step reads nothing the first wrote. -/
theorem modify_modify_of_gens {s u : State} (h : u.gens = s.gens) {dn pn pm : Fin 8} (dm : Fin 8)
    (hpn : pn ≠ dn) (hpm : pm ≠ dn) :
    modify pn pm (modify dn dm u) = (u.setGen dn (stepped s dn dm)).setGen pn (stepped s pn pm) := by
  have hother {k : Fin 8} (hk : k ≠ dn) : (u.setGen dn (stepped s dn dm)).gen k = s.gen k := by
    rw [State.setGen_gen_other u hk, State.gen, State.gen, h]
  rw [modify_of_gens h, modify_eq_stepped, stepped_congr (hother hpn) (hother hpm)]

/-- Settles O28: the operation leaves what both reads find, and the first read leaves to the second all but
the event it may have recorded. -/
theorem dualFetch : Obligations.DualFetch := by
  intro f y x dx dn dm dy pn pm s hwf
  obtain ⟨⟨⟨hdn, _⟩, hpn⟩, hpm⟩ : ((inDag1 dn ∧ inDag1 dm) ∧ inDag2 pn) ∧ inDag2 pm := by
    simpa only [Instr.WellFormed, Instr.wellFormed, Bool.and_eq_true] using hwf
  have h := unseenByAccess_compute f false y x s
  obtain ⟨hpmem, hdmem, hevents⟩ := h.memories
  refine ⟨_, exec_ccInstr_always f false y x s, hpmem, hdmem, hevents, ?_⟩
  have hgens (v : Byte) :
      ((portPm (ea s pn) (portDm (ea s dn) (compute f false y x s))).setPx v).gens = s.gens := by
    rw [State.setPx_gens, portPm_gens, portDm_gens, h.gens]
  rw [← dualXReg_code, ← dualYReg_code, ← wrDreg_eq_tableWrite, ← wrDreg_eq_tableWrite,
    ← dmRead_of_port h.port, ← pmRead_of_port (portDm_port_congr h.port (ea s dn)),
    ← modify_modify_of_gens (hgens _) dm (ne_of_inDag hdn hpn) (ne_of_inDag hdn hpm)]
  rfl

end Sys2Proof.Machine
end

section
/-! PROOFS. Interrupts (R300 to R313): every instruction answers a next state, the taking of a line, the pass, the
return from a handler: NothingStops, InterruptEntry, ArbitrationTakesHighest, ReturnUndoesEntry, NestingMasks. -/

namespace Sys2Proof.Machine

open Sys2Proof.Claims

/-! ## No step stops (R300, R357) -/

theorem exec_total (i : Instr) (s : State) : ∃ t, exec i s = .next t := by
  obtain ⟨t, ht, _⟩ := meaning_changes (exec_meaning i) s
  exact ⟨t, ht⟩

/-- Settles O6: a step ends after the pass or runs an instruction, and each instruction has a meaning that
answers. -/
theorem nothingStops : Obligations.NothingStops := by
  refine ⟨exec_total, fun s => ?_⟩
  rcases step_cases s with ⟨_, e⟩ | ⟨_, e⟩
  · exact ⟨_, e⟩
  · rw [e]
    exact exec_total _ _

/-! ## The pointer at the wrap (R30, R35, R36) -/

section

variable {α : Type} {k : Nat}

/-- The pointer comes back to 0 exactly where a push wraps. -/
theorem HwStack.push_sp_eq_zero (st : HwStack α k) : (st.sp + 1 == 0) = st.pushWraps := by
  rw [HwStack.pushWraps, Bool.eq_iff_iff, beq_iff_eq, beq_iff_eq, ← BitVec.neg_one_eq_allOnes,
    eq_neg_iff_add_eq_zero]
  rfl

theorem HwStack.pop_push (st : HwStack α k) (v : α) :
    (st.push v).pop = { cells := (st.push v).cells, sp := st.sp } :=
  HwStack.ext rfl (HwStack.pop_push_sp st v)

end

/-! ## The new mask (R308) -/

/-- The lines up to `n`, as a mask. -/
theorem getLsbD_upToLine (n : Fin 4) {k : Nat} (hk : k < 4) :
    (BitVec.ofNat 4 (2 * 2 ^ n.val - 1)).getLsbD k = decide (k ≤ n.val) := by
  rw [← Nat.pow_succ', BitVec.getLsbD_ofNat, Nat.testBit_two_pow_sub_one, decide_eq_true hk, Bool.true_and]
  exact decide_eq_decide.mpr Nat.lt_succ_iff

/-- Line `n` alone, as a mask. -/
theorem getLsbD_ownLine (n : Fin 4) {k : Nat} (hk : k < 4) :
    (BitVec.ofNat 4 (2 ^ n.val)).getLsbD k = decide (k = n.val) := by
  rw [BitVec.getLsbD_ofNat, Nat.testBit_two_pow, decide_eq_true hk, Bool.true_and]
  exact decide_eq_decide.mpr eq_comm

theorem getLsbD_newMask (n : Fin 4) (imask : BitVec 4) (icntl : BitVec 5) {k : Nat} (hk : k < 4) :
    (newMask n imask icntl).getLsbD k =
      (imask.getLsbD k && if icntl.getLsbD 4 then decide (n.val < k) else k != n.val) := by
  have clear (m : BitVec 4) : (imask &&& ~~~m).getLsbD k = (imask.getLsbD k && !m.getLsbD k) := by
    rw [BitVec.getLsbD_and, BitVec.getLsbD_not, decide_eq_true hk, Bool.true_and]
  by_cases hnest : icntl.getLsbD 4 = true
  · have hmask : newMask n imask icntl = imask &&& ~~~(BitVec.ofNat 4 (2 * 2 ^ n.val - 1)) := if_pos hnest
    rw [hmask, clear, getLsbD_upToLine n hk, if_pos hnest, ← decide_not]
    simp only [Nat.not_le]
  · have hmask : newMask n imask icntl = imask &&& ~~~(BitVec.ofNat 4 (2 ^ n.val)) := if_neg hnest
    rw [hmask, clear, getLsbD_ownLine n hk, if_neg hnest, bne, beq_eq_decide]

/-! ## Taking a line (R307) -/

/-- The status word after the entry's two pushes. -/
def entrySstat (s : State) : BitVec 8 :=
  sstatAfter (sstatAfter s.sstat pcEmptyBit (s.pcStk.sp + 1 == 0) s.pcStk.pushWraps)
    stsEmptyBit (s.stsStk.sp + 1 == 0) s.stsStk.pushWraps

theorem pushSts_pushPc (v : Addr) (s : State) : pushSts (pushPc v s) =
    { s with pcStk := s.pcStk.push v
             stsStk := s.stsStk.push { astat := s.astat, mstat := s.mstat, imask := s.imask }
             sstat := entrySstat s } := rfl

/-- The entry, each piece from the state before (R307, R308, R310). -/
theorem enter_eq (n : Fin 4) (s : State) : enter n s =
    { s with irqLatch := putBit s.irqLatch n.val false
             pcStk := s.pcStk.push s.pc
             stsStk := s.stsStk.push { astat := s.astat, mstat := s.mstat, imask := s.imask }
             sstat := entrySstat s
             pc := BitVec.ofNat 14 n.val
             idle := false
             imask := newMask n s.imask s.icntl
             events := .irqAck n :: s.events } := by
  have ops : enter n s =
      (((pushSts (pushPc s.pc ((s.record (.irqAck n)).setIrqLatch (putBit s.irqLatch n.val false)))).setPc
        (BitVec.ofNat 14 n.val)).setIdle false).setImask (newMask n s.imask s.icntl) := by
    simp [enter, Config.vector]
  rw [ops, pushSts_pushPc]
  rfl

theorem enter_frame (n : Fin 4) (s : State) :
    enter n s = { s with irqLatch := (enter n s).irqLatch, pcStk := (enter n s).pcStk,
                         stsStk := (enter n s).stsStk, sstat := (enter n s).sstat,
                         pc := BitVec.ofNat 14 n.val, idle := false, imask := (enter n s).imask,
                         events := .irqAck n :: s.events } := by
  rw [enter_eq]

theorem enter_imask (n : Fin 4) (s : State) : (enter n s).imask = newMask n s.imask s.icntl := by
  rw [enter_eq]

theorem getLsbD_enter_irqLatch (n : Fin 4) (s : State) (k : Nat) :
    (enter n s).irqLatch.getLsbD k = (s.irqLatch.getLsbD k && k != n.val) := by
  rw [enter_eq, getLsbD_putBit]
  by_cases h : k = n.val <;> simp [h]

/-- Each bit of the status word: the two of the PC stack, the two of the status stack, the other four. -/
theorem getLsbD_enter_sstat (n : Fin 4) (s : State) (k : Nat) :
    (enter n s).sstat.getLsbD k =
      if k = 0 then s.pcStk.pushWraps
      else if k = 1 then s.sstat.getLsbD 1 || s.pcStk.pushWraps
      else if k = 4 then s.stsStk.pushWraps
      else if k = 5 then s.sstat.getLsbD 5 || s.stsStk.pushWraps
      else s.sstat.getLsbD k := by
  rw [enter_eq, entrySstat, HwStack.push_sp_eq_zero, HwStack.push_sp_eq_zero,
    getLsbD_sstatAfter _ _ _ _ _ (by decide), getLsbD_sstatAfter _ _ _ _ _ (by decide)]
  obtain rfl | rfl | rfl | rfl | ⟨h0, h1, h4, h5⟩ :
      k = 0 ∨ k = 1 ∨ k = 4 ∨ k = 5 ∨ k ≠ 0 ∧ k ≠ 1 ∧ k ≠ 4 ∧ k ≠ 5 := by omega
  · rfl
  · rfl
  · rfl
  · rfl
  · simp [h0, h1, h4, h5, pcEmptyBit, stsEmptyBit]

/-- Settles O43: the latch by its bit, the stacks by their pushes, the mask and the status word bit by bit. -/
theorem interruptEntry : Obligations.InterruptEntry := by
  intro n s
  refine ⟨enter_frame n s, fun k _ => getLsbD_enter_irqLatch n s k, s.pcStk.push_pushed _,
    s.stsStk.push_pushed _, fun k hk => ?_, fun k _ => ?_⟩
  · rw [enter_imask, getLsbD_newMask n _ _ hk]
  · have hpc : s.pcStk.pushWraps = decide (s.pcStk.sp = 15) := beq_eq_decide _ _
    have hsts : s.stsStk.pushWraps = decide (s.stsStk.sp = 3) := beq_eq_decide _ _
    rw [getLsbD_enter_sstat, hpc, hsts]

/-! ## The pass (R306) -/

/-- Settles O44, by the two cases of the pass. -/
theorem arbitrationTakesHighest : Obligations.ArbitrationTakesHighest :=
  fun _ => ⟨fun _ hn hmax => arbitrate_of_highest hn hmax, arbitrate_of_no_request⟩

/-- Settles O46: a line that requests is enabled in the new mask. -/
theorem nestingMasks : Obligations.NestingMasks := by
  rintro n m s - ⟨-, hm⟩
  rw [enter_imask, getLsbD_newMask n _ _ m.isLt, Bool.and_eq_true] at hm
  obtain ⟨-, hm⟩ := hm
  split at hm
  · have hlt : n < m := of_decide_eq_true hm
    exact ⟨hlt.ne', fun _ => hlt⟩
  · next hnest => exact ⟨fun h => bne_iff_ne.mp hm (congrArg Fin.val h), fun h => absurd h hnest⟩

/-! ## The return (R311) -/

theorem exec_rti_always (s : State) : exec (.rti .always) s = .next (returnFromInterrupt s) := rfl

theorem popSts_frame (s : State) :
    popSts s = { s with stsStk := s.stsStk.pop, astat := s.stsStk.top.astat, mstat := s.stsStk.top.mstat,
                        imask := s.stsStk.top.imask, sstat := (popSts s).sstat } := by
  rfl

theorem returnFromInterrupt_frame (s : State) :
    returnFromInterrupt s =
      { s with pc := s.pcStk.top, pcStk := s.pcStk.pop, stsStk := s.stsStk.pop, astat := s.stsStk.top.astat,
               mstat := s.stsStk.top.mstat, imask := s.stsStk.top.imask,
               sstat := (returnFromInterrupt s).sstat } :=
  popSts_frame _

/-- Settles O45: each pop takes its pointer back and gives what the entry pushed. -/
theorem returnUndoesEntry : Obligations.ReturnUndoesEntry := by
  intro n s
  refine ⟨_, exec_rti_always _, (returnFromInterrupt_frame _).trans ?_⟩
  generalize (returnFromInterrupt (enter n s)).sstat = sstat
  rw [enter_eq]
  simp only [HwStack.top_push, HwStack.pop_push]

end Sys2Proof.Machine
end

section
/-! PROOFS. What the host does between steps (R303, R340, R350, R352): LineInput, HostKeepsSound. -/

namespace Sys2Proof.Machine

open Sys2Proof.Claims

/-! ## An interrupt line (R303) -/

/-- The state once the host has set line `n`, before the pass. -/
def lineSet (n : Fin 4) (asserted : Bool) (s : State) : State :=
  (if asserted && !s.irqLevel.getLsbD n.val && s.icntl.getLsbD n.val then
    s.setIrqLatch (putBit s.irqLatch n.val true)
  else s).setIrqLevel (putBit s.irqLevel n.val asserted)

theorem setIrqLine_eq (n : Fin 4) (asserted : Bool) (s : State) : setIrqLine n asserted s =
    if asserted then arbitrate (lineSet n asserted s) else lineSet n asserted s := by
  have hlevel (p : Prop) [Decidable p] (v : BitVec 4) :
      (if p then s.setIrqLatch v else s).irqLevel = s.irqLevel := by
    split <;> rfl
  simp only [setIrqLine, lineSet, hlevel]

/-- All that setting a line can do: an edge or none (R303). -/
theorem lineSet_cases (n : Fin 4) (asserted : Bool) (s : State) :
    ((asserted && !s.irqLevel.getLsbD n.val && s.icntl.getLsbD n.val) = true ∧
      lineSet n asserted s =
        { s with irqLevel := putBit s.irqLevel n.val asserted, irqLatch := putBit s.irqLatch n.val true }) ∨
    ((asserted && !s.irqLevel.getLsbD n.val && s.icntl.getLsbD n.val) = false ∧
      lineSet n asserted s = { s with irqLevel := putBit s.irqLevel n.val asserted }) := by
  unfold lineSet
  split
  · next h => exact .inl ⟨h, rfl⟩
  · next h => exact .inr ⟨Bool.eq_false_of_not_eq_true h, rfl⟩

theorem lineSet_frame (n : Fin 4) (asserted : Bool) (s : State) :
    lineSet n asserted s = { s with irqLevel := (lineSet n asserted s).irqLevel,
                                    irqLatch := (lineSet n asserted s).irqLatch } := by
  rcases lineSet_cases n asserted s with ⟨_, e⟩ | ⟨_, e⟩ <;> rw [e]

theorem getLsbD_lineSet_irqLevel (n : Fin 4) (asserted : Bool) (s : State) {k : Nat} (hk : k < 4) :
    (lineSet n asserted s).irqLevel.getLsbD k = if k = n.val then asserted else s.irqLevel.getLsbD k := by
  have h : (lineSet n asserted s).irqLevel = putBit s.irqLevel n.val asserted := by
    rcases lineSet_cases n asserted s with ⟨_, e⟩ | ⟨_, e⟩ <;> rw [e]
  simp only [h, getLsbD_putBit, hk, and_true]

theorem getLsbD_lineSet_irqLatch (n : Fin 4) (asserted : Bool) (s : State) {k : Nat} (hk : k < 4) :
    (lineSet n asserted s).irqLatch.getLsbD k = (s.irqLatch.getLsbD k ||
      (k == n.val && asserted && !s.irqLevel.getLsbD k && s.icntl.getLsbD k)) := by
  by_cases hn : k = n.val
  · subst hn
    rcases lineSet_cases n asserted s with ⟨hedge, e⟩ | ⟨hedge, e⟩ <;>
      rw [e, beq_self_eq_true, Bool.true_and, hedge]
    · rw [getLsbD_putBit, if_pos ⟨rfl, hk⟩, Bool.or_true]
    · rw [Bool.or_false]
  · rw [beq_false_of_ne hn]
    simp only [Bool.false_and, Bool.or_false]
    rcases lineSet_cases n asserted s with ⟨_, e⟩ | ⟨_, e⟩ <;> rw [e]
    rw [getLsbD_putBit, if_neg (fun h => hn h.1)]

/-- Settles O47: an edge or none, then the pass of an assertion. -/
theorem lineInput : Obligations.LineInput := fun n asserted s =>
  ⟨lineSet n asserted s, setIrqLine_eq n asserted s, lineSet_frame n asserted s, fun _ hk =>
    ⟨getLsbD_lineSet_irqLevel n asserted s hk, getLsbD_lineSet_irqLatch n asserted s hk⟩⟩

/-! ## The invariants between steps -/

theorem Changes.sound {s t : State} (h : Changes s t) (hs : s.Sound) : t.Sound := h.keeps Change.sound hs

theorem arbitrate_sound {s : State} (h : s.Sound) : (arbitrate s).Sound := (Changes.refl s).arbitrate.sound h

/-- No invariant speaks of the lines and latches. -/
theorem lineSet_sound {s : State} (h : s.Sound) (n : Fin 4) (asserted : Bool) :
    (lineSet n asserted s).Sound := by
  rw [lineSet_frame]
  exact h

theorem setIrqLine_sound {s : State} (h : s.Sound) (n : Fin 4) (asserted : Bool) :
    (setIrqLine n asserted s).Sound := by
  rw [setIrqLine_eq]
  split
  · exact arbitrate_sound (lineSet_sound h n asserted)
  · exact lineSet_sound h n asserted

/-- The core of one sound state with the memories of another. -/
theorem withContext_sound {s u : State} (hu : u.Sound) (hs : s.Sound) :
    State.Sound { s with toContext := u.toContext } := by
  obtain ⟨hb0, hb1, hgen, hempty, hact, hcells, _⟩ := hu
  obtain ⟨_, _, _, _, _, _, hmem⟩ := hs
  exact ⟨hb0, hb1, hgen, hempty, hact, hcells, hmem⟩

theorem HwStack.getElem_putDepth {α : Type} {k : Nat} (st : HwStack α k) (d : Nat) (v : α) (i : Fin (2 ^ k)) :
    (st.putDepth d v).cells[i] =
      if (st.sp - 1 - BitVec.ofNat k d).toNat = i.val then v else st.cells[i] :=
  Vector.getElem_set (st.sp - 1 - BitVec.ofNat k d).isLt i.isLt

/-- The snoop writes a cell of an end and a code, with the bits above them 0 (R30). -/
theorem setRegister_loopStackAt_cellsSound {s : State} (h : s.LoopCellsSound) (d : Fin 4) (v : BitVec 32) :
    (setRegister (.loopStackAt d) v s).LoopCellsSound := by
  intro i
  have hcell := s.loopStk.getElem_putDepth d.val (loopCell (v.extractLsb' 4 14) (v.extractLsb' 0 4)) i
  refine (congrArg (BitVec.extractLsb' 18 14) hcell).trans ?_
  split
  · exact loopCell_upper _ _
  · exact h i

/-- Settles O51: writes at the port and the passes are chains of primitive changes; reset and a restored context
put a sound core before the memories as they are. -/
theorem hostKeepsSound : Obligations.HostKeepsSound := by
  intro s hs
  have ⟨_, _, _, _, _, hcells, _⟩ := hs
  refine ⟨setIrqLine_sound hs, withContext_sound resetSound hs, fun a w => ⟨?_, (Change.putPm a w).sound hs⟩,
    fun a v => ⟨?_, (Change.putDm a v).sound hs⟩, fun _ _ => hs, setRegister_loopStackAt_cellsSound hcells,
    fun u hu => arbitrate_sound (withContext_sound hu hs)⟩
  · exact ((Changes.refl s).pmWrite a w).sound hs
  · exact ((Changes.refl s).dmWrite a v).sound hs

end Sys2Proof.Machine
end

section
/-! PROOFS. Reset, and a context saved and restored (R340, R344, R350): ResetAndContext. -/

namespace Sys2Proof.Machine

open Sys2Proof.Claims

/-- The core of the reset state, before what the host holds. -/
theorem hostReset_frame (s : State) : hostReset s =
    { State.reset with pm := s.pm, dm := s.dm, pmDevices := s.pmDevices, dmDevices := s.dmDevices,
                       events := s.events } := rfl

/-- Every interrupt is masked after a reset (R38). -/
theorem not_requests_hostReset (s : State) (n : Fin 4) : ¬Requests (hostReset s) n := by
  rintro ⟨-, hmask⟩
  have hzero : (hostReset s).imask.getLsbD n.val = false := BitVec.getLsbD_zero
  exact Bool.false_ne_true (hzero.symm.trans hmask)

theorem fetch_hostReset (s : State) : fetch (hostReset s) = pmRead s 0x0004 :=
  pmRead_congr rfl rfl rfl _

/-- A saved context is put before the memories as they are, then the pass runs (R350). -/
theorem setContext_getContext (u s : State) : setContext (getContext u) s =
    arbitrate { u with pm := s.pm, dm := s.dm, pmDevices := s.pmDevices, dmDevices := s.dmDevices,
                       events := s.events } := rfl

theorem setContext_getContext_self (s : State) : setContext (getContext s) s = arbitrate s := rfl

/-- Settles O59: no line requests after a reset, and a context restored where it was saved leaves only the pass. -/
theorem resetAndContext : Obligations.ResetAndContext := fun s =>
  ⟨hostReset_frame s, arbitrate_of_no_request (not_requests_hostReset s), fetch_hostReset s,
    fun u => setContext_getContext u s,
    fun hquiet => (setContext_getContext_self s).trans (arbitrate_of_no_request hquiet)⟩

end Sys2Proof.Machine
end

section
/-! PROOFS. The register snoop (R352): what each id reads, what a write of it does, and the integers of the
ids: SnoopWrites. -/

namespace Sys2Proof.Config

/-! ## The integers of the ids -/

theorem nodup_snoopNames : snoopNames.Nodup := by decide

/-- An integer that stands for a name is the integer of that name. -/
theorem snoopInt_snoopId {n : Int} (h : snoopId n ≠ .outOfRange) : snoopInt (snoopId n) = n := by
  unfold snoopId at h ⊢
  split at h
  · next place hplace =>
    by_cases hlt : place < snoopNames.length
    · rw [snoopInt, List.getElem?_eq_getElem hlt, Option.getD_some, nodup_snoopNames.idxOf_getElem _ hlt]
      exact (snoopPerm.symm_apply_eq.mp hplace).symm
    · exact absurd (by simp [List.getElem?_eq_none (Nat.le_of_not_lt hlt)]) h
  · exact absurd rfl h

theorem snoopId_eq_outOfRange {n : Int} (h : ∀ a : SnoopId, a ≠ .outOfRange → snoopInt a ≠ n) :
    snoopId n = .outOfRange := by
  by_contra hname
  exact h _ hname (snoopInt_snoopId hname)

end Sys2Proof.Config

namespace Sys2Proof.Machine

open Sys2Proof.Claims

theorem registerById_snoopInt {a : SnoopId} (h : a ≠ .outOfRange) (v : BitVec 32) (s : State) :
    getRegisterById (Config.snoopInt a) s = getRegister a s ∧
      setRegisterById (Config.snoopInt a) v s = setRegister a v s := by
  rw [getRegisterById, setRegisterById, Config.snoopId_snoopInt a h]
  exact ⟨rfl, rfl⟩

theorem registerById_noName {n : Int} (h : ∀ a : SnoopId, a ≠ .outOfRange → Config.snoopInt a ≠ n)
    (v : BitVec 32) (s : State) : getRegisterById n s = 0 ∧ setRegisterById n v s = s := by
  rw [getRegisterById, setRegisterById, Config.snoopId_eq_outOfRange h]
  exact ⟨rfl, rfl⟩

/-! ## The registers with a group slot (R211, R213, R214) -/

/-- The snoop id of a group 0 register. -/
def dregSnoop : Dreg → SnoopId
  | .ax0 => .ax0
  | .ax1 => .ax1
  | .mx0 => .mx0
  | .mx1 => .mx1
  | .ay0 => .ay0
  | .ay1 => .ay1
  | .my0 => .my0
  | .my1 => .my1
  | .si => .si
  | .se => .se
  | .ar => .ar
  | .mr0 => .mr0
  | .mr1 => .mr1
  | .mr2 => .mr2
  | .sr0 => .sr0
  | .sr1 => .sr1

theorem setRegister_dregSnoop (d : Dreg) (v : BitVec 32) (s : State) :
    setRegister (dregSnoop d) v s = tableWrite .data d.code (v.extractLsb' 0 16) s := by
  rw [← wrDreg_eq_tableWrite, ← BitVec.setWidth_eq_extractLsb' (by decide)]
  cases d <;> rfl

theorem getRegister_dregSnoop (d : Dreg) (s : State) :
    getRegister (dregSnoop d) s = BitVec.ofNat 32 (tableRead s .data d.code).toNat := by
  rw [← rdDreg_eq_tableRead, BitVec.ofNat_toNat]
  cases d <;> rfl

/-- The ids of group 0 by index. -/
def dataSnoops : List (SnoopId × Nat) :=
  (List.range 16).map fun k => (dregSnoop (Dreg.ofCode (BitVec.ofNat 4 k)), k)

theorem dataSnoops_registers (v : BitVec 32) (s : State) : ∀ p ∈ dataSnoops,
    setRegister p.1 v s = tableWrite .data (BitVec.ofNat 4 p.2) (v.extractLsb' 0 16) s ∧
    getRegister p.1 s = BitVec.ofNat 32 (tableRead s .data (BitVec.ofNat 4 p.2)).toNat := by
  intro p hp
  obtain ⟨k, -, rfl⟩ := List.mem_map.mp hp
  rw [setRegister_dregSnoop, getRegister_dregSnoop, Dreg.code_ofCode]
  exact ⟨rfl, rfl⟩

/-- A group 3 register but `CNTR`, whose snoop write does not push: its snoop id stands at its index (R214, R352). -/
inductive CtlSnoop : SnoopId → BitVec 4 → Prop
  | astat : CtlSnoop .astat 0
  | mstat : CtlSnoop .mstat 1
  | sstat : CtlSnoop .sstat 2
  | imask : CtlSnoop .imask 3
  | icntl : CtlSnoop .icntl 4
  | sb : CtlSnoop .sb 6
  | px : CtlSnoop .px 7

theorem CtlSnoop.setRegister_eq {id : SnoopId} {r : BitVec 4} (h : CtlSnoop id r) (v : BitVec 32) (s : State) :
    setRegister id v s = tableWrite .ctl r (v.extractLsb' 0 16) s := by
  rw [← wrCtl_eq_tableWrite, ← BitVec.setWidth_eq_extractLsb' (by decide)]
  cases h <;> rfl

theorem CtlSnoop.getRegister_eq {id : SnoopId} {r : BitVec 4} (h : CtlSnoop id r) (s : State) :
    getRegister id s = BitVec.ofNat 32 (tableRead s .ctl r).toNat := by
  rw [← rdCtl_eq_tableRead, BitVec.ofNat_toNat]
  cases h with
  | sb => rfl
  | _ => exact (BitVec.setWidth_setWidth (by decide)).symm

/-- The ids of group 3 by index. -/
def ctlSnoops : List (SnoopId × Nat) :=
  [(.astat, 0), (.mstat, 1), (.sstat, 2), (.imask, 3), (.icntl, 4), (.sb, 6), (.px, 7)]

theorem ctlSnoop_of_mem {p : SnoopId × Nat} (hp : p ∈ ctlSnoops) : CtlSnoop p.1 (BitVec.ofNat 4 p.2) := by
  simp only [ctlSnoops, List.mem_cons, List.not_mem_nil, or_false] at hp
  rcases hp with rfl | rfl | rfl | rfl | rfl | rfl | rfl
  exacts [.astat, .mstat, .sstat, .imask, .icntl, .sb, .px]

theorem setRegister_generator (n : Fin 8) (v : BitVec 32) (s : State) :
    setRegister (.i n) v s = tableWriteI n.val (v.extractLsb' 0 16) s ∧
    setRegister (.m n) v s = tableWriteM n.val (v.extractLsb' 0 16) s ∧
    setRegister (.l n) v s = tableWriteL n.val (v.extractLsb' 0 16) s := by
  have hn : Fin.ofNat 8 n.val = n := Fin.ofNat_val_eq_self n
  rw [← writeI_eq, ← writeM_eq, ← writeL_eq, hn, ← BitVec.setWidth_eq_extractLsb' (by decide)]
  exact ⟨rfl, rfl, rfl⟩

theorem getRegister_generator (n : Fin 8) (s : State) :
    getRegister (.i n) s = BitVec.ofNat 32 (s.gen n).i.toNat ∧
    getRegister (.m n) s = BitVec.ofNat 32 (s.gen n).m.toNat ∧
    getRegister (.l n) s = BitVec.ofNat 32 (s.gen n).l.toNat ∧
    getRegister (.mask n) s = BitVec.ofNat 32 (s.gen n).mask.toNat ∧
    getRegister (.base n) s = BitVec.ofNat 32 (s.gen n).base.toNat := by
  simp only [BitVec.ofNat_toNat]
  exact ⟨rfl, rfl, rfl, rfl, rfl⟩

/-! ## The ids without a group slot -/

theorem bitValue_eq (b : Bool) : bitValue b = BitVec.ofNat 32 b.toNat := by
  cases b <;> rfl

/-- The ids outside the tables with the piece of the state each one reads; `genPC` and `genSP` are names of two of
them (log 12). -/
def plainReads (s : State) : List (SnoopId × Nat) :=
  [(.pc, s.pc.toNat), (.ppc, s.ppc.toNat), (.cntr, s.cntr.toNat), (.af, s.bank.af.toNat),
    (.mf, s.bank.mf.toNat), (.pcSp, s.pcStk.sp.toNat), (.loopSp, s.loopStk.sp.toNat),
    (.cntrSp, s.cntrStk.sp.toNat), (.stsSp, s.stsStk.sp.toNat), (.flagIn, s.flagIn.toNat),
    (.flagOut, s.flagOut.toNat), (.idle, s.idle.toNat), (.loopTerm, s.loopTerm.toNat),
    (.genPc, s.pc.toNat), (.genSp, s.pcStk.sp.toNat)]

theorem getRegister_plainReads (s : State) : ∀ p ∈ plainReads s, getRegister p.1 s = BitVec.ofNat 32 p.2 := by
  simp only [plainReads, List.forall_mem_cons, BitVec.ofNat_toNat, ← bitValue_eq]
  exact ⟨rfl, rfl, rfl, rfl, rfl, rfl, rfl, rfl, rfl, rfl, rfl, rfl, rfl, rfl, rfl, fun _ => nofun⟩

theorem getRegister_loopEnd (s : State) : getRegister .loopEnd s =
    match s.loopEnd with
    | some e => BitVec.ofNat 32 e.toNat
    | none => Config.snoopOfNone := by
  rw [getRegister]
  cases s.loopEnd with
  | none => rfl
  | some e => exact (BitVec.ofNat_toNat _ e).symm

theorem setRegister_irqLatch (n : Fin 4) (v : BitVec 32) (s : State) :
    ∃ l, setRegister (.irqLatch n) v s = { s with irqLatch := l } ∧
      ∀ k < 4, l.getLsbD k = if k = n.val then v.getLsbD 0 else s.irqLatch.getLsbD k :=
  ⟨putBit s.irqLatch n.val (v.getLsbD 0), rfl, fun k hk => by simp only [getLsbD_putBit, hk, and_true]⟩

/-- A write of the PC stack pointer, by either of its names (log 13). -/
theorem setRegister_pcSp (v : BitVec 32) (s : State) : ∀ id ∈ [SnoopId.pcSp, .genSp], setRegister id v s =
    { s with pcStk := { s.pcStk with sp := v.extractLsb' 0 4 },
             sstat := setFlag s.sstat 0 (v.extractLsb' 0 4 == 0) } := by
  simp only [List.forall_mem_cons, setFlag_eq_putBit, ← BitVec.setWidth_eq_extractLsb' (show 4 ≤ 32 by decide)]
  exact ⟨rfl, rfl, fun _ => nofun⟩

/-- A write of the pointer of another stack (log 13). -/
theorem setRegister_otherSp (v : BitVec 32) (s : State) :
    let sp := v.extractLsb' 0 2
    setRegister .cntrSp v s =
      { s with cntrStk := { s.cntrStk with sp := sp }, sstat := setFlag s.sstat 2 (sp == 0) } ∧
    setRegister .stsSp v s =
      { s with stsStk := { s.stsStk with sp := sp }, sstat := setFlag s.sstat 4 (sp == 0) } ∧
    setRegister .loopSp v s =
      { s with loopStk := { s.loopStk with sp := sp }, sstat := setFlag s.sstat 6 (sp == 0) } := by
  simp only [setFlag_eq_putBit, ← BitVec.setWidth_eq_extractLsb' (show 2 ≤ 32 by decide)]
  exact ⟨rfl, rfl, rfl⟩

/-- The writes that take the low 14 bits (log 13). -/
theorem setRegister_addr (v : BitVec 32) (s : State) :
    setRegister .pc v s = s.setPc (v.extractLsb' 0 14) ∧
    setRegister .genPc v s = { s with pc := v.extractLsb' 0 14 } ∧
    setRegister .ppc v s = { s with ppc := v.extractLsb' 0 14 } ∧
    setRegister .loopEnd v s = { s with loopEnd := some (v.extractLsb' 0 14) } := by
  rw [← BitVec.setWidth_eq_extractLsb' (by decide)]
  exact ⟨rfl, rfl, rfl, rfl⟩

theorem setRegister_loopTerm (v : BitVec 32) (s : State) :
    setRegister .loopTerm v s = { s with loopTerm := v.extractLsb' 0 4 } := by
  rw [← BitVec.setWidth_eq_extractLsb' (by decide)]
  rfl

/-- The writes that take the low 16 bits; that of `CNTR` does not push (R352). -/
theorem setRegister_word (v : BitVec 32) (s : State) :
    setRegister .cntr v s = s.setCntr (v.extractLsb' 0 16) ∧
    setRegister .af v s = s.setBank { s.bank with af := v.extractLsb' 0 16 } ∧
    setRegister .mf v s = s.setBank { s.bank with mf := v.extractLsb' 0 16 } := by
  rw [← BitVec.setWidth_eq_extractLsb' (by decide)]
  exact ⟨rfl, rfl, rfl⟩

/-! ## The content of a stack at a depth (R37) -/

section
variable {α : Type} {k : Nat} (st : HwStack α k) {d j : Nat}

/-- The cell at a depth, by its number. -/
theorem HwStack.depthIndex_eq (hj : j < 2 ^ k) (h : (j + 1 + d) % 2 ^ k = st.sp.toNat) :
    (st.sp - 1 - BitVec.ofNat k d).toNat = j := by
  have hsp : st.sp = BitVec.ofNat k j + 1 + BitVec.ofNat k d := by
    apply BitVec.eq_of_toNat_eq
    rw [← h]
    simp
  have hindex : st.sp - 1 - BitVec.ofNat k d = BitVec.ofNat k j := by
    rw [hsp]
    ring
  rw [hindex, BitVec.toNat_ofNat, Nat.mod_eq_of_lt hj]

theorem HwStack.atDepth_eq (hj : j < 2 ^ k) (h : (j + 1 + d) % 2 ^ k = st.sp.toNat) :
    st.atDepth d = st.cells[j] := by
  simp only [HwStack.atDepth, st.depthIndex_eq hj h]

theorem HwStack.putDepth_eq (hj : j < 2 ^ k) (h : (j + 1 + d) % 2 ^ k = st.sp.toNat) (v : α) :
    st.putDepth d v = { st with cells := st.cells.set j v } := by
  simp only [HwStack.putDepth, st.depthIndex_eq hj h]

end

/-- The 18 bits a loop cell has (R30). -/
theorem loopCell_low_bits (v : BitVec 32) :
    loopCell (v.extractLsb' 4 14) (v.extractLsb' 0 4) = BitVec.ofNat 32 (v.extractLsb' 0 18).toNat := by
  apply BitVec.eq_of_toNat_eq
  simp only [loopCell, toNat_cat, BitVec.extractLsb'_toNat, BitVec.toNat_ofNat, Nat.shiftRight_eq_div_pow]
  omega

/-- A status entry has `ASTAT`, `MSTAT` and `IMASK` from the top (R30). -/
theorem stsValue_eq (c : StsCell) :
    (stsValue c).setWidth 32 = BitVec.ofNat 32 (256 * c.astat.toNat + 16 * c.mstat.toNat + c.imask.toNat) := by
  apply BitVec.eq_of_toNat_eq
  simp only [stsValue, toNat_cat, BitVec.toNat_setWidth, BitVec.toNat_ofNat]
  omega

theorem pcStackAt_eq (v : BitVec 32) (s : State) (k j : Fin 16)
    (h : (j.val + 1 + k.val) % 16 = s.pcStk.sp.toNat) :
    getRegister (.pcStackAt k) s = BitVec.ofNat 32 s.pcStk.cells[j].toNat ∧
    setRegister (.pcStackAt k) v s =
      { s with pcStk := { s.pcStk with cells := s.pcStk.cells.set j.val (v.extractLsb' 0 14) } } := by
  rw [getRegister, setRegister, s.pcStk.atDepth_eq j.isLt h, s.pcStk.putDepth_eq j.isLt h,
    BitVec.setWidth_eq_extractLsb' (show 14 ≤ 32 by decide), BitVec.ofNat_toNat]
  exact ⟨rfl, rfl⟩

theorem loopStackAt_eq (v : BitVec 32) (s : State) (k j : Fin 4)
    (h : (j.val + 1 + k.val) % 4 = s.loopStk.sp.toNat) :
    getRegister (.loopStackAt k) s = s.loopStk.cells[j] ∧
    setRegister (.loopStackAt k) v s =
      { s with loopStk := { s.loopStk with
                 cells := s.loopStk.cells.set j.val (BitVec.ofNat 32 (v.extractLsb' 0 18).toNat) } } := by
  rw [getRegister, setRegister, s.loopStk.atDepth_eq j.isLt h, s.loopStk.putDepth_eq j.isLt h, loopCell_low_bits]
  exact ⟨rfl, rfl⟩

theorem cntrStackAt_eq (v : BitVec 32) (s : State) (k j : Fin 4)
    (h : (j.val + 1 + k.val) % 4 = s.cntrStk.sp.toNat) :
    getRegister (.cntrStackAt k) s = BitVec.ofNat 32 s.cntrStk.cells[j].toNat ∧
    setRegister (.cntrStackAt k) v s =
      { s with cntrStk := { s.cntrStk with cells := s.cntrStk.cells.set j.val (v.extractLsb' 0 16) } } := by
  rw [getRegister, setRegister, s.cntrStk.atDepth_eq j.isLt h, s.cntrStk.putDepth_eq j.isLt h,
    BitVec.setWidth_eq_extractLsb' (show 16 ≤ 32 by decide), BitVec.ofNat_toNat]
  exact ⟨rfl, rfl⟩

theorem stsStackAt_eq (v : BitVec 32) (s : State) (k j : Fin 4)
    (h : (j.val + 1 + k.val) % 4 = s.stsStk.sp.toNat) :
    let c := s.stsStk.cells[j]
    getRegister (.stsStackAt k) s =
      BitVec.ofNat 32 (256 * c.astat.toNat + 16 * c.mstat.toNat + c.imask.toNat) ∧
    setRegister (.stsStackAt k) v s =
      { s with stsStk := { s.stsStk with cells := s.stsStk.cells.set j.val (stsOfValue v) } } := by
  rw [getRegister, setRegister, s.stsStk.atDepth_eq j.isLt h, s.stsStk.putDepth_eq j.isLt h, stsValue_eq]
  exact ⟨rfl, rfl⟩

/-- Settles O60, id by id: the reads and writes through the tables, the ids without a slot, the stacks by the cell
at the depth, and the integers. -/
theorem snoopWrites : Obligations.SnoopWrites := by
  intro v s
  obtain ⟨hpc, hgenPc, hppc, hloopEnd⟩ := setRegister_addr v s
  obtain ⟨hcntr, haf, hmf⟩ := setRegister_word v s
  refine ⟨dataSnoops_registers v s, fun n => ?generator, fun p hp => ?ctl, getRegister_plainReads s, getRegister_loopEnd s,
    fun n => ?maskAndBase, fun n => ?irqLatch, setRegister_pcSp v s, setRegister_otherSp v s, hppc, hgenPc,
    hloopEnd, setRegister_loopTerm v s, rfl, rfl, rfl, hcntr, hpc, haf, hmf, fun n => ⟨rfl, bitValue_eq _⟩,
    pcStackAt_eq v s, loopStackAt_eq v s, cntrStackAt_eq v s, stsStackAt_eq v s, rfl, rfl, fun a ha => ?names,
    fun n hn => registerById_noName hn v s⟩
  case generator =>
    obtain ⟨hwi, hwm, hwl⟩ := setRegister_generator n v s
    obtain ⟨hi, hm, hl, _⟩ := getRegister_generator n s
    exact ⟨hwi, hwm, hwl, hi, hm, hl⟩
  case ctl => exact ⟨(ctlSnoop_of_mem hp).setRegister_eq v s, (ctlSnoop_of_mem hp).getRegister_eq s⟩
  case maskAndBase =>
    obtain ⟨_, _, _, hmask, hbase⟩ := getRegister_generator n s
    exact ⟨hmask, rfl, hbase, rfl⟩
  case irqLatch => exact ⟨bitValue_eq _, setRegister_irqLatch n v s⟩
  case names =>
    obtain ⟨hget, hset⟩ := registerById_snoopInt ha v s
    exact ⟨hget, hset, fun b hb => Config.snoopInt_injective ha hb⟩

end Sys2Proof.Machine
end
